-- ==== Sys2Proof/Word.lean ====
section
/-! DEFINITION. The word types of SUNHID-CORE and the two small index types every other file uses. -/

namespace Sys2Proof

/-- A byte: bit 7 is the most significant (R10). -/
abbrev Byte := BitVec 8

/-- The two logical HID interfaces, `K` (keyboard) and `P` (pointer) (R6, R71). -/
inductive Endpoint where
  | k
  | p
deriving DecidableEq, Repr

/-- One value for each endpoint: the arrays `idle[e]`, `proto[e]`, `inflight[e]` of R11. -/
structure PerEp (α : Type) where
  k : α
  p : α
deriving DecidableEq, Repr

/-- Element `e` of an array indexed by endpoint (R11). -/
def PerEp.get {α : Type} (a : PerEp α) : Endpoint → α
  | .k => a.k
  | .p => a.p

/-- `a[e] <- v` (R11). -/
def PerEp.set {α : Type} (a : PerEp α) (e : Endpoint) (v : α) : PerEp α :=
  match e with
  | .k => { a with k := v }
  | .p => { a with p := v }

/-- The decoder state, the block's program counter (R33); the codes are `DState.code`. -/
inductive DState where
  | settle
  | resetTx
  | first
  | argReset
  | argLayout
  | argFail
  | halt
deriving DecidableEq, Repr

/-- The 3-bit code of a decoder state (R33); code 6 is unused. -/
def DState.code : DState → BitVec 3
  | .settle => 0
  | .resetTx => 1
  | .first => 2
  | .argReset => 3
  | .argLayout => 4
  | .argFail => 5
  | .halt => 7

/-- A state that expects the operand byte of a two-byte form (R33). -/
def DState.isArg : DState → Bool
  | .argReset | .argLayout | .argFail => true
  | .settle | .resetTx | .first | .halt => false

/-- `rd(dstate)` of R8: one of the four states of the read loop. -/
def DState.reads (d : DState) : Bool :=
  d == .first || d.isArg

end Sys2Proof
end

