-- ==== Sys2Proof/Config.lean ====
section
/-! DEFINITION. The implementation parameters of R5 as plain data, their defaults, and the two free values: the contents
of the scancode ROM, which the spec leaves open (D8), and the usage code of a scancode whose entry is dead (R70). -/

namespace Sys2Proof

/-- The parameters of R5. A model's instantiation is one value of this type; State carries it in a field that nothing
writes (DESIGN CHOICE, log 1, safe). `SETTLE_DELAY` has no field: the model has no time (log 10). -/
structure Config where
  /-- `M_IDLE` -/
  mIdle : Byte
  /-- `M_RESET_ACK` -/
  mResetAck : Byte
  /-- `M_LAYOUT` -/
  mLayout : Byte
  /-- `M_SELFTEST_FAIL` -/
  mSelftestFail : Byte
  /-- `CMD_RESET` -/
  cmdReset : Byte
  /-- `CMD_LEDS` -/
  cmdLeds : Byte
  /-- `SCANROM`: the listed entries as (index, byte); an index not listed reads `Memory.unlisted` (log 2). -/
  scanrom : List Host.Cell
  /-- `MOD_BASE` -/
  modBase : Byte
  /-- `HAS_WHEEL` -/
  hasWheel : Bool
  /-- `HAS_PAN` -/
  hasPan : Bool
  /-- `PTR_LEN` -/
  ptrLen : Nat
  /-- `MOUSEBTN`: the raw bytes whose mask is not the one of R126, with their masks (log 6). -/
  mouseBtn : List (Byte × BitVec 3)
  /-- `IF_KBD` -/
  ifKbd : Byte
  /-- `IF_PTR` -/
  ifPtr : Byte
  /-- `REQ_GET_REPORT` -/
  reqGetReport : Byte
  /-- `REQ_GET_IDLE` -/
  reqGetIdle : Byte
  /-- `REQ_GET_PROTOCOL` -/
  reqGetProtocol : Byte
  /-- `REQ_SET_REPORT` -/
  reqSetReport : Byte
  /-- `REQ_SET_IDLE` -/
  reqSetIdle : Byte
  /-- `REQ_SET_PROTOCOL` -/
  reqSetProtocol : Byte
  /-- `UNEXPECTED`: the pairs (dstate, byte) for which the predicate holds (log 8). -/
  unexpected : List (DState × Byte)
  /-- `KTX_DEPTH` -/
  ktxDepth : Nat
deriving DecidableEq, Repr

/-- FREE VALUE (log 2): the usage code of a scancode whose ROM entry no instantiation lists. The spec prints one entry
of `SCANROM` only (R121) and leaves the others open (D8), so nothing is known of this function. -/
opaque Config.scanromOpen : Nat → Byte

/-- FREE VALUE (log 26): the usage code of a key transition whose ROM entry is dead, so that it is read by nothing (R70, C6). The
spec gives no other source for the code, so nothing is known of this function. -/
opaque Config.deadUsage : Nat → Byte

/-- The defaults of R5. PRESUMED where R5 says `gk` (log 3, 4, 5, 6), DESIGN CHOICE of the spec where it says `dec`;
`SCANROM` has no default, so nothing is listed (log 2). -/
def Config.default : Config where
  mIdle := 0x7F
  mResetAck := 0xFF
  mLayout := 0xFE
  mSelftestFail := 0x7E
  cmdReset := 0x01
  cmdLeds := 0x0E
  scanrom := []
  modBase := 0xE0
  hasWheel := false
  hasPan := false
  ptrLen := 3
  mouseBtn := []
  ifKbd := 0
  ifPtr := 1
  reqGetReport := 0x01
  reqGetIdle := 0x02
  reqGetProtocol := 0x03
  reqSetReport := 0x09
  reqSetIdle := 0x0A
  reqSetProtocol := 0x0B
  unexpected := []
  ktxDepth := 3

end Sys2Proof
end

