-- ==== Sys2Proof/Syntax.lean ====
section
/-! DEFINITION. The instructions of SUNHID-CORE: one constructor per row of spec/opcode_table.json, in the table's
order, and the frames, the words as they stand on the ports. Bits a row marks as ignored (`z`) are no operand. -/

namespace Sys2Proof

/-- One unit of input the block decodes and gives a meaning (R13), or one data format it produces (log 15). -/
inductive Instr where
  /-- KRX8: the reset-acknowledgment marker (R83, R144). -/
  | resetAck
  /-- KRX8: the layout-response marker (R84, R145). -/
  | layoutResp
  /-- KRX8: the self-test-failure marker (R85, R146). -/
  | selftestFail
  /-- KRX8: the idle marker (R86, R147). -/
  | idle
  /-- KRX8: press of a scancode (R87, R148). -/
  | keyDown (sc : BitVec 7)
  /-- KRX8: release of a scancode (R88, R149). -/
  | keyUp (sc : BitVec 7)
  /-- KRX8: the second byte of a two-byte form (R89, R90, R150). -/
  | krxOperand (v : Byte)
  /-- KOP10: press a usage code (R92, R171). -/
  | press (u : Byte)
  /-- KOP10: release a usage code (R92, R172). -/
  | release (u : Byte)
  /-- KOP10: release everything (R92, R173). -/
  | releaseAll
  /-- POP34: move (R91, R191). -/
  | move (dx dy wheel pan : Byte)
  /-- POP34: set the button bitmap (R91, R192). -/
  | setButtons (mask : BitVec 3)
  /-- POP34: press button `n` (R91, R193). -/
  | buttonPress (n : Byte)
  /-- POP34: release button `n` (R91, R194). -/
  | buttonRelease (n : Byte)
  /-- CTL32: GET_REPORT of type Input (R94, R233). -/
  | getReport (e : Endpoint)
  /-- CTL32: GET_IDLE (R94, R231). -/
  | getIdle (e : Endpoint)
  /-- CTL32: GET_PROTOCOL (R94, R235). -/
  | getProtocol (e : Endpoint)
  /-- CTL32: SET_REPORT of type Output on the keyboard, with its data byte (R94, R234). -/
  | setReport (data : Byte)
  /-- CTL32: SET_IDLE (R94, R232). -/
  | setIdle (e : Endpoint) (rate : Byte)
  /-- CTL32: SET_PROTOCOL (R94, R236). -/
  | setProtocol (e : Endpoint) (proto : Byte)
  /-- CTL32: every request the six rows above do not select (R94, R237). -/
  | reject (req iface : Byte) (value : BitVec 16)
  /-- STROBE `rst` (R290). -/
  | reset
  /-- STROBE `settle_done` (R141). -/
  | settle
  /-- STROBE `ktx_valid` and `ktx_ready` (R247). -/
  | ktxAccept
  /-- STROBE `krx_fail` (R152). -/
  | krxFail
  /-- STROBE `krpt_done` (R213). -/
  | txDoneK
  /-- STROBE `prpt_done` (R213). -/
  | txDoneP
  /-- STROBE `act_valid` with `act_ep` (R240). -/
  | activate (e : Endpoint)
  /-- KTX8, produced: the reset command (R96, R141). -/
  | cmdReset
  /-- KTX16, produced: the LED command with its mask (R96, R241). -/
  | cmdLeds (m : BitVec 4)
  /-- RPT64, produced: a keyboard report (R97, R211). -/
  | kbdReport (kmod k0 k1 k2 k3 k4 k5 : Byte)
  /-- RPT24 and its longer builds, produced: a pointer report (R98, R212). -/
  | ptrReport (btn : BitVec 3) (dx dy wheel pan : Byte)
  /-- LED8, inside SET_REPORT: the host's output report byte (R99, R234). -/
  | outputReport (data : Byte)
  /-- LED8, produced: the keyboard's LED mask, its four bits by name (R96, R123). -/
  | sunLedMask (num compose scroll caps : Bool)
  /-- MB8: a raw mouse button byte at the button mapper (R125, R126). -/
  | mouseRaw (raw : Byte)
deriving DecidableEq, Repr

/-- A word as it stands on a port of R81 (or, for the formats that cross no input port, in the table's own format). The
keyboard report and the pointer report are packed by R63, byte 0 in bits 7:0; a pointer report shorter than eight bytes
leaves the high bits 0. -/
inductive Frame where
  /-- `krx_data` with `krx_valid`. -/
  | krx (b : Byte)
  /-- `krx_fail`. -/
  | krxFail (w : BitVec 1)
  /-- The keyboard operation word of R92, internal to a KRX step. -/
  | kop (w : BitVec 10)
  /-- The pointer operation word of R91. -/
  | pop (w : BitVec 34)
  /-- The class-request selection word of R93 and `ctl_wdata` beside it. -/
  | ctl (w : BitVec 32) (data : Byte)
  /-- `rst`. -/
  | rst (w : BitVec 1)
  /-- `settle_done`. -/
  | settleDone (w : BitVec 1)
  /-- `ktx_valid` and `ktx_ready`. -/
  | ktxHandshake (w : BitVec 2)
  /-- `krpt_done`. -/
  | krptDone (w : BitVec 1)
  /-- `prpt_done`. -/
  | prptDone (w : BitVec 1)
  /-- `act_valid` and `act_ep`. -/
  | act (w : BitVec 2)
  /-- A one-byte command on KTX (R96). -/
  | ktx8 (w : BitVec 8)
  /-- A two-byte command on KTX, the first byte in the high half (R96). -/
  | ktx16 (w : BitVec 16)
  /-- `krpt_data` (R97). -/
  | krpt (w : BitVec 64)
  /-- `prpt_data` (R98). -/
  | prpt (w : BitVec 64)
  /-- The output report byte (R99). -/
  | ledIn (w : BitVec 8)
  /-- The LED mask byte (R96). -/
  | ledOut (w : BitVec 8)
  /-- `mb_raw`. -/
  | mb (w : BitVec 8)
deriving DecidableEq, Repr

/-- The ports frames stand on (R81). Frames of one port are taken in the order they are offered; KRX carries both bytes
and the line's failure. The formats that cross no input port have a place of their own, so that they hold up nothing. -/
inductive Port where
  | krx
  | pop
  | ctl
  | rst
  | settle
  | ktx
  | krptDone
  | prptDone
  | act
  | mb
  | kop
  | ktx8
  | ktx16
  | krpt
  | prpt
  | ledIn
  | ledOut
deriving DecidableEq, Repr

/-- The port a frame stands on (R81). -/
def Frame.port : Frame → Port
  | .krx _ => .krx
  | .krxFail _ => .krx
  | .kop _ => .kop
  | .pop _ => .pop
  | .ctl _ _ => .ctl
  | .rst _ => .rst
  | .settleDone _ => .settle
  | .ktxHandshake _ => .ktx
  | .krptDone _ => .krptDone
  | .prptDone _ => .prptDone
  | .act _ => .act
  | .ktx8 _ => .ktx8
  | .ktx16 _ => .ktx16
  | .krpt _ => .krpt
  | .prpt _ => .prpt
  | .ledIn _ => .ledIn
  | .ledOut _ => .ledOut
  | .mb _ => .mb

/-- The frame is on an input port of R81, so that the environment can offer it; the others are internal to a step or
produced by the block (log 15). -/
def Frame.isInput (f : Frame) : Bool :=
  match f.port with
  | .krx | .pop | .ctl | .rst | .settle | .ktx | .krptDone | .prptDone | .act | .mb => true
  | .kop | .ktx8 | .ktx16 | .krpt | .prpt | .ledIn | .ledOut => false

/-- The instruction is an event of R8 or a byte at the combinational port MB, not an action internal to a step (log 15). -/
def Instr.isEvent : Instr → Bool
  | .resetAck | .layoutResp | .selftestFail | .idle | .keyDown _ | .keyUp _ | .krxOperand _ => true
  | .move _ _ _ _ | .setButtons _ | .buttonPress _ | .buttonRelease _ => true
  | .getReport _ | .getIdle _ | .getProtocol _ | .setReport _ | .setIdle _ _ | .setProtocol _ _ => true
  | .reject _ _ _ | .reset | .settle | .ktxAccept | .krxFail | .txDoneK | .txDoneP | .activate _ => true
  | .mouseRaw _ => true
  | .press _ | .release _ | .releaseAll | .cmdReset | .cmdLeds _ | .kbdReport _ _ _ _ _ _ _ => false
  | .ptrReport _ _ _ _ _ | .outputReport _ | .sunLedMask _ _ _ _ => false

end Sys2Proof
end

