-- ==== Sys2Proof/WellFormed.lean ====
section
/-! DEFINITION. When an instruction is one the block's encoding can express under a configuration: a key transition is no
marker (R87, R88), a rejected request is none of the six that are served (R94), a pointer report has no delta its build
does not carry (R98). -/

namespace Sys2Proof

/-- `b` is one of the four markers (R82 tests 2 to 5). -/
def Config.isMarker (c : Config) (b : Byte) : Bool :=
  b == c.mResetAck || b == c.mLayout || b == c.mSelftestFail || b == c.mIdle

/-- `ifok` of R94: the interface is one of the two. -/
def Config.ifok (c : Config) (iface : Byte) : Bool :=
  iface == c.ifKbd || iface == c.ifPtr

/-- The first six rows of R94: the request is served. -/
def Config.served (c : Config) (req iface : Byte) (value : BitVec 16) : Bool :=
  (req == c.reqGetReport && c.ifok iface && value.extractLsb' 8 8 == 0x01#8) ||
  (req == c.reqGetIdle && c.ifok iface) ||
  (req == c.reqGetProtocol && c.ifok iface) ||
  (req == c.reqSetReport && iface == c.ifKbd && value.extractLsb' 8 8 == 0x02#8) ||
  (req == c.reqSetIdle && c.ifok iface) ||
  (req == c.reqSetProtocol && c.ifok iface)

/-- The instruction can be written in its format under the configuration. -/
def Instr.wf (c : Config) : Instr → Bool
  | .keyDown sc => !c.isMarker (0#1 ++ sc)
  | .keyUp sc => !c.isMarker (1#1 ++ sc)
  | .reject req iface value => !c.served req iface value
  | .ptrReport _ _ _ wheel pan => (c.hasWheel || wheel == 0) && (c.hasPan || pan == 0)
  | .resetAck | .layoutResp | .selftestFail | .idle | .krxOperand _ => true
  | .press _ | .release _ | .releaseAll => true
  | .move _ _ _ _ | .setButtons _ | .buttonPress _ | .buttonRelease _ => true
  | .getReport _ | .getIdle _ | .getProtocol _ | .setReport _ | .setIdle _ _ | .setProtocol _ _ => true
  | .reset | .settle | .ktxAccept | .krxFail | .txDoneK | .txDoneP | .activate _ => true
  | .cmdReset | .cmdLeds _ | .kbdReport _ _ _ _ _ _ _ | .outputReport _ => true
  | .sunLedMask _ _ _ _ | .mouseRaw _ => true

/-- The decoder states in which the instruction's word is read as that instruction: a first byte not in an operand
state, an operand byte in one (the table's `context`); every other format does not depend on the decoder. -/
def Instr.inContext (d : DState) : Instr → Bool
  | .resetAck | .layoutResp | .selftestFail | .idle | .keyDown _ | .keyUp _ => !d.isArg
  | .krxOperand _ => d.isArg
  | .press _ | .release _ | .releaseAll => true
  | .move _ _ _ _ | .setButtons _ | .buttonPress _ | .buttonRelease _ => true
  | .getReport _ | .getIdle _ | .getProtocol _ | .setReport _ | .setIdle _ _ | .setProtocol _ _ => true
  | .reject _ _ _ | .reset | .settle | .ktxAccept | .krxFail | .txDoneK | .txDoneP | .activate _ => true
  | .cmdReset | .cmdLeds _ | .kbdReport _ _ _ _ _ _ _ | .ptrReport _ _ _ _ _ => true
  | .outputReport _ | .sunLedMask _ _ _ _ | .mouseRaw _ => true

end Sys2Proof
end

