-- ==== Sys2Proof/Decode.lean ====
section
/-! DEFINITION. The decoder, total on every frame and rejecting by name; after it the encoder, written from the same
formats (R82 to R99); and the reading of a table word. -/

namespace Sys2Proof

/-- Why a frame is no instruction. None of these words is ever on a port (log 20). -/
inductive DecodeError where
  /-- A strobe that is low: no event is offered (R81). -/
  | strobeLow
  /-- Keyboard operation code 11, never generated (R92, R100). -/
  | kopCode11
  /-- A byte on KTX that is not the reset command (R96). -/
  | notResetCommand
  /-- A two-byte command on KTX that is not the LED command with mask bits 7:4 zero (R96). -/
  | notLedCommand
  /-- A keyboard report whose reserved byte is not zero (R97). -/
  | reservedByte
  /-- A pointer report with a bit set that R98 gives as zero. -/
  | pointerPadding
  /-- A LED mask with a bit of 7:4 set (R123). -/
  | maskHighBits
deriving DecidableEq, Repr

/-- The classification of a form's first byte, in the order of R82 (its tests 2 to 7; test 1 is in the meanings, log 19).
For markers other than the defaults: a marker with its bit 7 flipped may be no marker (`M_IDLE` = 0x10, byte 0x90); R82 makes
that byte a key transition, and its ROM entry is dead (R70, C6; `usageOf` and log 26 say what its usage code then is). -/
def classify (c : Config) (b : Byte) : Instr :=
  if b = c.mResetAck then .resetAck
  else if b = c.mLayout then .layoutResp
  else if b = c.mSelftestFail then .selftestFail
  else if b = c.mIdle then .idle
  else if b.getLsbD 7 then .keyUp (b.extractLsb' 0 7)
  else .keyDown (b.extractLsb' 0 7)

/-- A byte on KRX: the operand of a two-byte form in an operand state, never classified (R89); a first byte otherwise
(in a state that does not read the line the byte waits, so how it would read there has no effect, log 19). -/
def decodeKrx (c : Config) (d : DState) (b : Byte) : Instr :=
  if d.isArg then .krxOperand b else classify c b

/-- The keyboard operation word of R92. -/
def decodeKop (w : BitVec 10) : Except DecodeError Instr :=
  let u := w.extractLsb' 0 8
  if w.extractLsb' 8 2 = 0 then .ok (.press u)
  else if w.extractLsb' 8 2 = 1 then .ok (.release u)
  else if w.extractLsb' 8 2 = 2 then .ok .releaseAll
  else .error .kopCode11

/-- The pointer operation word of R91. -/
def decodePop (w : BitVec 34) : Instr :=
  let a := w.extractLsb' 24 8
  if w.extractLsb' 32 2 = 0 then .move a (w.extractLsb' 16 8) (w.extractLsb' 8 8) (w.extractLsb' 0 8)
  else if w.extractLsb' 32 2 = 1 then .setButtons (a.extractLsb' 0 3)
  else if w.extractLsb' 32 2 = 2 then .buttonPress a
  else .buttonRelease a

/-- The interface decode of R238. -/
def endpointOf (c : Config) (iface : Byte) : Option Endpoint :=
  if iface = c.ifKbd then some .k
  else if iface = c.ifPtr then some .p
  else none

/-- The selection of a class request, R94. -/
def decodeRequest (c : Config) (req iface : Byte) (value : BitVec 16) (data : Byte) : Instr :=
  let hi := value.extractLsb' 8 8
  match endpointOf c iface with
  | none => .reject req iface value
  | some e =>
    if req = c.reqGetReport then
      if hi = 0x01 then .getReport e else .reject req iface value
    else if req = c.reqGetIdle then .getIdle e
    else if req = c.reqGetProtocol then .getProtocol e
    else if req = c.reqSetReport then
      if e = .k ∧ hi = 0x02 then .setReport data else .reject req iface value
    else if req = c.reqSetIdle then .setIdle e hi
    else if req = c.reqSetProtocol then .setProtocol e (value.extractLsb' 0 8)
    else .reject req iface value

/-- The 32-bit selection word of R93. -/
def decodeCtl (c : Config) (w : BitVec 32) (data : Byte) : Instr :=
  decodeRequest c (w.extractLsb' 24 8) (w.extractLsb' 16 8) (w.extractLsb' 0 16) data

/-- A strobe of one wire. -/
def decodeStrobe (w : BitVec 1) (i : Instr) : Except DecodeError Instr :=
  if w = 1 then .ok i else .error .strobeLow

/-- `{act_valid, act_ep}`: 0 = K, 1 = P (R81). -/
def decodeAct (w : BitVec 2) : Except DecodeError Instr :=
  if w.getLsbD 1 then .ok (.activate (if w.getLsbD 0 then .p else .k)) else .error .strobeLow

/-- Byte `i` of a packed report (R63). -/
def laneByte (w : BitVec 64) (i : Nat) : Byte :=
  w.extractLsb' (8 * i) 8

/-- The keyboard report of R97. -/
def decodeKrpt (w : BitVec 64) : Except DecodeError Instr :=
  if laneByte w 1 = 0 then
    .ok (.kbdReport (laneByte w 0) (laneByte w 2) (laneByte w 3) (laneByte w 4) (laneByte w 5) (laneByte w 6)
      (laneByte w 7))
  else .error .reservedByte

/-- The number of bytes of a pointer report before the padding, `3 + HAS_WHEEL + HAS_PAN` (R28). -/
def Config.ptrUsed (c : Config) : Nat :=
  3 + c.hasWheel.toNat + c.hasPan.toNat

/-- The pointer report of R98, of any build. -/
def decodePrpt (c : Config) (w : BitVec 64) : Except DecodeError Instr :=
  if (laneByte w 0).extractLsb' 3 5 = 0 ∧ w >>> (8 * c.ptrUsed) = 0 then
    .ok (.ptrReport ((laneByte w 0).extractLsb' 0 3) (laneByte w 1) (laneByte w 2)
      (if c.hasWheel then laneByte w 3 else 0)
      (if c.hasPan then laneByte w (3 + c.hasWheel.toNat) else 0))
  else .error .pointerPadding

/-- The LED mask byte of R123. -/
def decodeMask (w : BitVec 8) : Except DecodeError Instr :=
  if w.extractLsb' 4 4 = 0 then
    .ok (.sunLedMask (w.getLsbD 0) (w.getLsbD 1) (w.getLsbD 2) (w.getLsbD 3))
  else .error .maskHighBits

/-- The decoder: what a frame stands for, under a configuration and in a decoder state. -/
def decode (c : Config) (d : DState) : Frame → Except DecodeError Instr
  | .krx b => .ok (decodeKrx c d b)
  | .krxFail w => decodeStrobe w .krxFail
  | .kop w => decodeKop w
  | .pop w => .ok (decodePop w)
  | .ctl w data => .ok (decodeCtl c w data)
  | .rst w => decodeStrobe w .reset
  | .settleDone w => decodeStrobe w .settle
  | .ktxHandshake w => if w = 3 then .ok .ktxAccept else .error .strobeLow
  | .krptDone w => decodeStrobe w .txDoneK
  | .prptDone w => decodeStrobe w .txDoneP
  | .act w => decodeAct w
  | .ktx8 w => if w = c.cmdReset then .ok .cmdReset else .error .notResetCommand
  | .ktx16 w =>
    if w.extractLsb' 8 8 = c.cmdLeds ∧ w.extractLsb' 4 4 = 0 then .ok (.cmdLeds (w.extractLsb' 0 4))
    else .error .notLedCommand
  | .krpt w => decodeKrpt w
  | .prpt w => decodePrpt c w
  | .ledIn w => .ok (.outputReport w)
  | .ledOut w => decodeMask w
  | .mb w => .ok (.mouseRaw w)

/-! ### The encoder -/

/-- The byte of a KRX form (R83 to R90). -/
def krxByte (c : Config) : Instr → Byte
  | .resetAck => c.mResetAck
  | .layoutResp => c.mLayout
  | .selftestFail => c.mSelftestFail
  | .idle => c.mIdle
  | .keyDown sc => 0#1 ++ sc
  | .keyUp sc => 1#1 ++ sc
  | .krxOperand v => v
  | _ => 0

/-- The interface number of an endpoint (R238). -/
def ifaceOf (c : Config) : Endpoint → Byte
  | .k => c.ifKbd
  | .p => c.ifPtr

/-- Bytes on the lanes of a bus, byte `i` on bits `[8i+7:8i]` (R63). -/
def packLanes : List Byte → BitVec 64
  | [] => 0
  | b :: bs => (packLanes bs <<< 8) ||| b.setWidth 64

/-- The bytes of a pointer report before its padding, in wire order (R62, R98). -/
def ptrBytes (c : Config) (btn : BitVec 3) (dx dy wheel pan : Byte) : List Byte :=
  [btn.setWidth 8, dx, dy] ++ (if c.hasWheel then [wheel] else []) ++ (if c.hasPan then [pan] else [])

/-- The frame of an instruction; ignored bits are written as zero. -/
def encode (c : Config) : Instr → Frame
  | .resetAck => .krx (krxByte c .resetAck)
  | .layoutResp => .krx (krxByte c .layoutResp)
  | .selftestFail => .krx (krxByte c .selftestFail)
  | .idle => .krx (krxByte c .idle)
  | .keyDown sc => .krx (krxByte c (.keyDown sc))
  | .keyUp sc => .krx (krxByte c (.keyUp sc))
  | .krxOperand v => .krx (krxByte c (.krxOperand v))
  | .press u => .kop (0#2 ++ u)
  | .release u => .kop (1#2 ++ u)
  | .releaseAll => .kop (2#2 ++ 0#8)
  | .move dx dy wheel pan => .pop (0#2 ++ (dx ++ (dy ++ (wheel ++ pan))))
  | .setButtons mask => .pop (1#2 ++ ((0#5 ++ mask) ++ 0#24))
  | .buttonPress n => .pop (2#2 ++ (n ++ 0#24))
  | .buttonRelease n => .pop (3#2 ++ (n ++ 0#24))
  | .getReport e => .ctl (c.reqGetReport ++ (ifaceOf c e ++ (0x01#8 ++ 0#8))) 0
  | .getIdle e => .ctl (c.reqGetIdle ++ (ifaceOf c e ++ 0#16)) 0
  | .getProtocol e => .ctl (c.reqGetProtocol ++ (ifaceOf c e ++ 0#16)) 0
  | .setReport data => .ctl (c.reqSetReport ++ (c.ifKbd ++ (0x02#8 ++ 0#8))) data
  | .setIdle e rate => .ctl (c.reqSetIdle ++ (ifaceOf c e ++ (rate ++ 0#8))) 0
  | .setProtocol e proto => .ctl (c.reqSetProtocol ++ (ifaceOf c e ++ (0#8 ++ proto))) 0
  | .reject req iface value => .ctl (req ++ (iface ++ value)) 0
  | .reset => .rst 1
  | .settle => .settleDone 1
  | .ktxAccept => .ktxHandshake 3
  | .krxFail => .krxFail 1
  | .txDoneK => .krptDone 1
  | .txDoneP => .prptDone 1
  | .activate .k => .act 2
  | .activate .p => .act 3
  | .cmdReset => .ktx8 c.cmdReset
  | .cmdLeds m => .ktx16 (c.cmdLeds ++ (0#4 ++ m))
  | .kbdReport kmod k0 k1 k2 k3 k4 k5 => .krpt (packLanes [kmod, 0, k0, k1, k2, k3, k4, k5])
  | .ptrReport btn dx dy wheel pan => .prpt (packLanes (ptrBytes c btn dx dy wheel pan))
  | .outputReport data => .ledIn data
  | .sunLedMask num compose scroll caps =>
    .ledOut (0#4 ++ (BitVec.ofBool caps ++ (BitVec.ofBool scroll ++ (BitVec.ofBool compose ++ BitVec.ofBool num))))
  | .mouseRaw raw => .mb raw

/-! ### Table words -/

/-- The frame of a word of the opcode table, by its width in whole bytes. Several formats of the table have one width
(KRX8, KTX8, LED8, MB8 and the strobes all fit in a byte) and the port alone tells them apart, so a byte is read as a
byte on KRX, and a 16-bit word above ten bits as a command on KTX (DESIGN CHOICE, log 17). -/
def frameOfTableWord (nbits w : Nat) : Option Frame :=
  if nbits ≤ 8 then some (.krx (BitVec.ofNat 8 w))
  else if nbits ≤ 16 then
    if w < 1024 then some (.kop (BitVec.ofNat 10 w)) else some (.ktx16 (BitVec.ofNat 16 w))
  else if nbits ≤ 24 then some (.prpt (BitVec.ofNat 64 w))
  else if nbits ≤ 32 then some (.ctl (BitVec.ofNat 32 w) 0)
  else if nbits ≤ 40 then some (.pop (BitVec.ofNat 34 w))
  else if nbits ≤ 64 then some (.krpt (BitVec.ofNat 64 w))
  else none

/-- The instruction the decoder reads from a word of the opcode table, at the default configuration and with the decoder
expecting a first byte. -/
def decodeTableWord (nbits w : Nat) : Option Instr :=
  match frameOfTableWord nbits w with
  | none => none
  | some f => (decode Config.default .first f).toOption

end Sys2Proof
end

