-- ==== Sys2Proof/Machine/State.lean ====
section
/-! DEFINITION. The state of SUNHID-CORE (R20) as plain data, with the configuration (R5) and the model's own record of
what is offered to the block and what it has emitted; the reasons a step can stop; the state after reset (R39). -/

namespace Sys2Proof.Machine

/-- Whose write a byte of `ktx` belongs to (R35): the decoder's reset command or the control context's LED command. -/
inductive KtxTag where
  | dec
  | ctl
deriving DecidableEq, Repr

/-- An entry of the keyboard-line transmit queue (R35). -/
structure KtxEntry where
  byte : Byte
  tag : KtxTag
deriving DecidableEq, Repr

/-- A response on CTL (R95). -/
inductive CtlRsp where
  | ack
  | data (bytes : List Byte)
  | reject
deriving DecidableEq, Repr

/-- What a step emits (R7, R11): a report, a byte on the keyboard line, a response, and the combinational results of the
button mapper (R125) and the LED packer (R123, log 15). -/
inductive Output where
  | krpt (bytes : List Byte)
  | prpt (bytes : List Byte)
  | ktx (b : Byte)
  | ctl (r : CtlRsp)
  | mb (mask : BitVec 3)
  | ledMask (b : Byte)
deriving DecidableEq, Repr

/-- The conditions of R260, with what `raise` is given. -/
inductive Condition where
  | transportClosed
  | transportUnexpected (b : Byte)
  | unmappedScancode (b : Byte)
  | selfTestFailure (code : Byte)
  | unsupportedRequest (req iface : Byte) (value : BitVec 16)
  | keyTableOverflow (u : Byte)
deriving DecidableEq, Repr

/-- Why the machine stops with a fault. -/
inductive Fault where
  /-- Raised by `step` when a frame offered or placed is a word no port ever carries (R92: code 11 "never generated"; R81: a strobe
  that is low is no event; R96, R97, R98, R123: an output word the block never produces). No meaning raises it. Safe: the
  run stops where the hardware has no such step (log 20). -/
  | impossibleWord (e : DecodeError)
deriving DecidableEq, Repr

/-- Why an instruction has no meaning. -/
inductive Refusal where
  /-- Raised by an arm of `exec` whose instruction has no meaning yet; no arm does. Safe. -/
  | notModelled (mnemonic : String)
deriving DecidableEq, Repr

/-- The state of the block: the tuple of R20, then the configuration, then the model's own fields. -/
structure State where
  /-- `kmod` (R21): bit `i` is the modifier `MOD_BASE + i`. -/
  kmod : Byte
  /-- `kkey[0..5]` (R23): 0 is an empty slot. -/
  kkey : Vector Byte 6
  /-- `pbtn` (R25): bit `n-1` is button `n`. -/
  pbtn : BitVec 3
  /-- `pdx` (R26). -/
  pdx : Byte
  /-- `pdy` (R26). -/
  pdy : Byte
  /-- `pwheel` (R27); zero and unread in a build without `HAS_WHEEL` (log 7). -/
  pwheel : Byte
  /-- `ppan` (R27); zero and unread in a build without `HAS_PAN` (log 7). -/
  ppan : Byte
  /-- `oled` (R30). -/
  oled : Byte
  /-- `idle[e]` (R31), in units of 4 ms. -/
  idle : PerEp Byte
  /-- `proto[e]` (R32): 0 boot, 1 report. -/
  proto : PerEp Byte
  /-- `inflight[e]` (R34). -/
  inflight : PerEp Bool
  /-- `dstate` (R33). -/
  dstate : DState
  /-- `ktx` (R35), the head first. -/
  ktx : List KtxEntry
  /-- The parameters of R5, which nothing writes (log 1). -/
  cfg : Config
  /-- The model's own: the events offered at the ports and not yet taken, in the order they are offered (log 12). -/
  pending : List Frame
  /-- The model's own: a word that crosses no input port, placed from outside a run so that the next step runs it by itself
(R92: "given so that a model can name and test the operations"). None at reset; no step places one (log 15). -/
  probe : Option Frame
  /-- The model's own: what the block has emitted, oldest first (log 14). -/
  outs : List Output
  /-- The model's own: the conditions raised, oldest first (log 14). -/
  raised : List Condition
deriving DecidableEq, Repr

/-- The machine right after RESET: the values of R39, the default configuration, nothing offered and nothing emitted. -/
def State.reset : State where
  kmod := 0x00
  kkey := Vector.replicate 6 0x00
  pbtn := 0
  pdx := 0x00
  pdy := 0x00
  pwheel := 0x00
  ppan := 0x00
  oled := 0x00
  idle := { k := 0x00, p := 0x00 }
  proto := { k := 0x01, p := 0x01 }
  inflight := { k := false, p := false }
  dstate := .settle
  ktx := []
  cfg := Config.default
  pending := []
  probe := none
  outs := []
  raised := []

end Sys2Proof.Machine
end

