-- ==== Sys2Proof/Machine/Operands.lean ====
section
/-! DEFINITION. What the operations read: the scancode ROM, the translation tables (R120 to R127), the report byte arrays
(R62) and the fields of a response (R95). All are pure functions. -/

namespace Sys2Proof.Machine

/-! ### The scancode ROM (R61) -/

/-- The block's one memory: the listed (index, byte) pairs of the ROM. -/
abbrev Memory := List Host.Cell

/-- What an index no pair lists reads as: the key 'A' at 0x4D (R121; its code 0x04 is PRESUMED, log 4), and an open value
everywhere else (log 2). -/
def Memory.unlisted (a : Nat) : Byte :=
  if a = 0x4D then 0x04 else Config.scanromOpen a

/-- `MemRead(SCANROM, a, 1)` (R11), one byte. -/
def Memory.read (m : Memory) (a : Nat) : Byte :=
  match m.find? (fun c => c.1 == a) with
  | some c => c.2
  | none => Memory.unlisted a

/-- Indices strictly rising. -/
def Memory.rising : Memory → Bool
  | [] => true
  | c :: m => m.all (fun d => c.1 < d.1) && Memory.rising m

/-- The canonical form: indices strictly rising and below 128, no pair equal to what an unlisted index is known to read as.
That is the pair (0x4D, 0x04) alone: every other unlisted index reads an open value, which no pair can be compared with
(log 2). -/
def Memory.wf (m : Memory) : Bool :=
  Memory.rising m && m.all (fun c => decide (c.1 < 128) && c != (0x4D, 0x04))

/-- `sun2hid(sc)` (R120): 0x00 is "no HID mapping". -/
def sun2hid (c : Config) (sc : BitVec 7) : Byte :=
  Memory.read c.scanrom sc.toNat

/-- The entry at `sc` is dead: `sc` is the low seven bits of a marker (R70, C6). -/
def deadEntry (c : Config) (sc : BitVec 7) : Bool :=
  [c.mResetAck, c.mLayout, c.mSelftestFail, c.mIdle].any fun m => m.extractLsb' 0 7 == sc

/-- The usage code of a key transition of scancode `sc` (R148, R149): the ROM entry; where the entry is dead, and so never read
(R70, C6), an open value (DESIGN CHOICE, log 26: R149 reads the entry, C6 calls it unreachable). -/
def usageOf (c : Config) (sc : BitVec 7) : Byte :=
  if deadEntry c sc then Config.deadUsage sc.toNat else sun2hid c sc

/-! ### Modifiers (R122) -/

/-- `is_modifier(u)` (R122). -/
def isModifier (c : Config) (u : Byte) : Bool :=
  decide (c.modBase.toNat ≤ u.toNat) && decide (u.toNat ≤ c.modBase.toNat + 7)

/-- `mod_bit(u)` (R122): the low three bits of `u - MOD_BASE`. -/
def modBit (c : Config) (u : Byte) : BitVec 3 :=
  (u - c.modBase).extractLsb' 0 3

/-! ### The LED packer (R123) -/

/-- `hid2sun_leds(leds)` (R123), on all 256 values. -/
def hid2sunLeds (leds : Byte) : Byte :=
  (leds &&& 0x05#8) ||| ((leds &&& 0x02#8) <<< 2) ||| ((leds &&& 0x08#8) >>> 2)

/-! ### The mouse-button mapper (R125, R126) -/

/-- The default `MOUSEBTN` (R126): bit 0 left, bit 1 right, bit 2 middle, each active low in `10000LMR` (PRESUMED, log 6). -/
def mouseDefault (raw : Byte) : BitVec 3 :=
  BitVec.ofBool (!raw.getLsbD 1) ++ (BitVec.ofBool (!raw.getLsbD 0) ++ BitVec.ofBool (!raw.getLsbD 2))

/-- `sun2hid_mousebuttons(raw)` (R125): the parameter `MOUSEBTN`. -/
def sun2hidMousebuttons (c : Config) (raw : Byte) : BitVec 3 :=
  match c.mouseBtn.find? (fun e => e.1 == raw) with
  | some e => e.2
  | none => mouseDefault raw

/-! ### The configuration -/

/-- `UNEXPECTED(dstate, b)` (R5, R151). -/
def unexpected (c : Config) (d : DState) (b : Byte) : Bool :=
  c.unexpected.contains (d, b)

/-- No two entries of a list are equal. -/
def distinct : List Byte → Bool
  | [] => true
  | b :: bs => !bs.contains b && distinct bs

/-- The constraints R5 has the model check on an instantiation, with the two points of R125, the bounds of R5's types and
the canonical form of the ROM (log 9, log 23). -/
def configOk (c : Config) : Bool :=
  distinct [c.mIdle, c.mResetAck, c.mLayout, c.mSelftestFail] &&
  c.ifKbd != c.ifPtr &&
  distinct [c.reqGetReport, c.reqGetIdle, c.reqGetProtocol, c.reqSetReport, c.reqSetIdle, c.reqSetProtocol] &&
  decide (c.ptrUsed ≤ c.ptrLen) && decide (c.ptrLen ≤ 8) &&
  decide (c.modBase.toNat ≤ 0xF8) &&
  sun2hid c 0x4D == 0x04 &&
  Memory.wf c.scanrom &&
  (List.range 256).any (fun r => sun2hidMousebuttons c (BitVec.ofNat 8 r) == 0) &&
  (List.range 256).any (fun r => (sun2hidMousebuttons c (BitVec.ofNat 8 r)).getLsbD 0) &&
  decide (3 ≤ c.ktxDepth)

/-! ### The reports as byte arrays (R62) -/

/-- `KR[0..7]` (R62, R97). -/
def keyboardReport (s : State) : List Byte :=
  s.kmod :: 0x00 :: s.kkey.toList

/-- `PR[0..PTR_LEN-1]` (R62, R98): the fields of the build, then padding 0x00 (R28). -/
def pointerReport (s : State) : List Byte :=
  ptrBytes s.cfg s.pbtn s.pdx s.pdy s.pwheel s.ppan ++ List.replicate (s.cfg.ptrLen - s.cfg.ptrUsed) 0x00

/-- The report of an endpoint (R233). -/
def reportOf (e : Endpoint) (s : State) : List Byte :=
  match e with
  | .k => keyboardReport s
  | .p => pointerReport s

/-! ### A response on the wires of CTL (R95) -/

/-- `ctl_rsp` (R95): 00 ACK, 01 DATA, 10 REJECT. -/
def CtlRsp.code : CtlRsp → BitVec 2
  | .ack => 0
  | .data _ => 1
  | .reject => 2

/-- The bytes a response returns. -/
def CtlRsp.bytes : CtlRsp → List Byte
  | .data bs => bs
  | .ack | .reject => []

/-- `ctl_rlen` (R95). -/
def CtlRsp.rlen (r : CtlRsp) : BitVec 4 :=
  BitVec.ofNat 4 r.bytes.length

/-- `ctl_rdata` (R95): byte `i` on bits `[8i+7:8i]`, unused bits 0. -/
def CtlRsp.rdata (r : CtlRsp) : BitVec 64 :=
  packLanes r.bytes

/-! ### The output report (R99) and the key slots -/

/-- The LED bits of an output report by name (R30, R99); kana at bit 4 is PRESUMED (log 4). -/
structure Leds where
  num : Bool
  caps : Bool
  scroll : Bool
  compose : Bool
  kana : Bool
  reserved : BitVec 3
deriving DecidableEq, Repr

/-- The named fields of an output report byte (R99). -/
def ledsOf (b : Byte) : Leds where
  num := b.getLsbD 0
  caps := b.getLsbD 1
  scroll := b.getLsbD 2
  compose := b.getLsbD 3
  kana := b.getLsbD 4
  reserved := b.extractLsb' 5 3

/-- The least slot that holds `u` (R171, R172). -/
def slotOf (keys : Vector Byte 6) (u : Byte) : Option (Fin 6) :=
  (List.finRange 6).find? fun i => keys[i] == u

/-- The class number of a condition in the source's own numbering (R260). -/
def Condition.errorClass : Condition → Nat
  | .transportClosed => 1
  | .transportUnexpected _ => 1
  | .unmappedScancode _ => 2
  | .selfTestFailure _ => 2
  | .unsupportedRequest _ _ _ => 2
  | .keyTableOverflow _ => 3

end Sys2Proof.Machine
end

