-- ==== Sys2Proof/Machine/Flags.lean ====
section
/-! DEFINITION. The block has no flags register (R36). Its nearest things are here: the status of an operation (R170), the
port signals computed from the state (R81), and the enabling condition of every event (R8). -/

namespace Sys2Proof.Machine

/-- The status an operation yields within its step (R170); it is stored nowhere. -/
inductive Status where
  | changed
  | noop
  | overflow
deriving DecidableEq, Repr

/-! ### Port signals (R81) -/

/-- `krx_ready`: the decoder reads and no keyboard report is in flight (R81, R154). -/
def krxReady (s : State) : Bool :=
  s.dstate.reads && !s.inflight.k

/-- `ktx_valid`. -/
def ktxValid (s : State) : Bool :=
  !s.ktx.isEmpty

/-- `ktx_data`, the byte of the head entry; none when `ktx_valid` is low. -/
def ktxData (s : State) : Option Byte :=
  s.ktx.head?.map (·.byte)

/-- `pop_ready`. -/
def popReady (s : State) : Bool :=
  !s.inflight.p

/-- `krpt_valid`. -/
def krptValid (s : State) : Bool :=
  s.inflight.k

/-- `krpt_data` (R63). -/
def krptData (s : State) : BitVec 64 :=
  packLanes (keyboardReport s)

/-- `prpt_valid`. -/
def prptValid (s : State) : Bool :=
  s.inflight.p

/-- `prpt_data`, the high bits 0 where `PTR_LEN` is below 8 (R63). -/
def prptData (s : State) : BitVec 64 :=
  packLanes (pointerReport s)

/-- `khalted` (R33). -/
def khalted (s : State) : Bool :=
  s.dstate == .halt

/-- `ctl_busy` (R248): the queue holds an entry tagged `CTL`. -/
def ctlBusy (s : State) : Bool :=
  s.ktx.any (·.tag == .ctl)

/-! ### Enabling (R8) -/

/-- The decoder takes the first byte of a form (R143). -/
def firstReady (s : State) : Bool :=
  s.dstate == .first && !s.inflight.k

/-- The decoder takes an operand byte (R150). -/
def argReady (s : State) : Bool :=
  s.dstate.isArg && !s.inflight.k

/-- The enabling condition of every event (R8). PRESS, RELEASE and RELEASE_ALL are no events: they run only where the KRX step
that invokes them can (R8, R143). For the formats the block produces: the endpoint's guard is free (R210), and the word is the
one the block produces in this state (log 15). `ctl_ready` of R81 is this condition for the request offered. -/
def enabled (i : Instr) (s : State) : Bool :=
  match i with
  | .resetAck | .layoutResp | .selftestFail | .idle | .keyDown _ | .keyUp _ => firstReady s
  | .krxOperand _ => argReady s
  | .press _ | .release _ | .releaseAll => firstReady s
  | .move _ _ _ _ | .setButtons _ | .buttonPress _ | .buttonRelease _ => popReady s
  | .getReport e => !ctlBusy s && !s.inflight.get e
  | .getIdle _ | .getProtocol _ | .setReport _ | .setIdle _ _ | .setProtocol _ _ | .reject _ _ _ => !ctlBusy s
  | .reset => true
  | .settle => s.dstate == .settle
  | .ktxAccept => ktxValid s
  | .krxFail => krxReady s
  | .txDoneK | .txDoneP | .activate _ => true
  | .cmdReset => s.dstate == .settle
  | .cmdLeds m => !ctlBusy s && m.setWidth 8 == hid2sunLeds s.oled
  | .kbdReport kmod k0 k1 k2 k3 k4 k5 => !s.inflight.k && keyboardReport s == [kmod, 0x00, k0, k1, k2, k3, k4, k5]
  | .ptrReport btn dx dy wheel pan =>
    !s.inflight.p && ptrBytes s.cfg s.pbtn s.pdx s.pdy s.pwheel s.ppan == ptrBytes s.cfg btn dx dy wheel pan
  | .outputReport _ => !ctlBusy s
  | .sunLedMask num compose scroll caps =>
    hid2sunLeds s.oled ==
      0#4 ++ (BitVec.ofBool caps ++ (BitVec.ofBool scroll ++ (BitVec.ofBool compose ++ BitVec.ofBool num)))
  | .mouseRaw _ => true

end Sys2Proof.Machine
end

