-- ==== Sys2Proof/Machine/Ops.lean ====
section
/-! DEFINITION. The operations the meanings share: emitting an output, raising a condition (the block's exceptions),
transmitting a report, queueing bytes for the keyboard line, taking a byte of that line, and running an event under its
enabling condition. -/

namespace Sys2Proof.Machine

/-- An event in a state: its effect where it is enabled; where it is not it has no step and waits at its source, so nothing
changes (R7; log 11). -/
def whenEnabled (i : Instr) (s : State) (effect : State → State) : Host.Outcome State Fault Refusal :=
  .next (if enabled i s then effect s else s)

/-- `emit` (R11). -/
def emit (o : Output) (s : State) : State :=
  { s with outs := s.outs ++ [o] }

/-- `dstate <- d` (R11). -/
def goto (d : DState) (s : State) : State :=
  { s with dstate := d }

/-- TAKING AN EXCEPTION: `raise <Condition>` with the response R260 and R261 give it. The condition is recorded in the
model's own list (log 14); a transport-fatal one (class 1) sends the decoder to `D_HALT`; no other condition changes
anything. There is no saved state, no handler and no return (R268, R269). -/
def raiseCond (x : Condition) (s : State) : State :=
  { s with raised := s.raised ++ [x], dstate := if x.errorClass = 1 then .halt else s.dstate }

/-- `transmit(K)` (R211). -/
def transmitK (s : State) : State :=
  { s with outs := s.outs ++ [.krpt (keyboardReport s)], inflight := s.inflight.set .k true }

/-- `transmit(P)` (R212). -/
def transmitP (s : State) : State :=
  { s with outs := s.outs ++ [.prpt (pointerReport s)], inflight := s.inflight.set .p true }

/-- Appending to the transmit queue (R35, R245). -/
def pushKtx (es : List KtxEntry) (s : State) : State :=
  { s with ktx := s.ktx ++ es }

/-- `led_forward()` (R241): the two bytes of the LED command, in one step. -/
def ledForward (s : State) : State :=
  pushKtx [⟨s.cfg.cmdLeds, .ctl⟩, ⟨hid2sunLeds s.oled, .ctl⟩] s

/-- The accepting of an output report byte (R234): store, forward, acknowledge. -/
def acceptOutputReport (data : Byte) (s : State) : State :=
  emit (.ctl .ack) (ledForward { s with oled := data })

/-- The sending of the reset command (R141): the queue part and the control transfer. -/
def sendReset (s : State) : State :=
  goto .resetTx (pushKtx [⟨s.cfg.cmdReset, .dec⟩] s)

/-- Taking byte `b` from the keyboard line: an unexpected byte halts the decoder before anything else (R82 test 1, R151,
R267); any other has the effect of its form. -/
def takeByte (b : Byte) (form : State → State) (s : State) : State :=
  if unexpected s.cfg s.dstate b then raiseCond (.transportUnexpected b) s else form s

/-- Writing zero to every delta the build has (R193, R194, R213). -/
def zeroDeltas (s : State) : State :=
  { s with
    pdx := 0x00
    pdy := 0x00
    pwheel := if s.cfg.hasWheel then 0x00 else s.pwheel
    ppan := if s.cfg.hasPan then 0x00 else s.ppan }

end Sys2Proof.Machine
end

