-- ==== Sys2Proof/Machine/Control.lean ====
section
/-! DEFINITION. The class requests (45_control_led.md R230 to R239) and the activation hook (R240). -/

namespace Sys2Proof.Machine

/-- A response with data. -/
def respond (bytes : List Byte) (s : State) : State :=
  emit (.ctl (.data bytes)) s

/-- GET_REPORT of type Input (R233). -/
def execGetReport (e : Endpoint) (s : State) : Host.Outcome State Fault Refusal :=
  whenEnabled (.getReport e) s fun s => respond (reportOf e s) s

/-- GET_IDLE (R231). -/
def execGetIdle (e : Endpoint) (s : State) : Host.Outcome State Fault Refusal :=
  whenEnabled (.getIdle e) s fun s => respond [s.idle.get e] s

/-- GET_PROTOCOL (R235). -/
def execGetProtocol (e : Endpoint) (s : State) : Host.Outcome State Fault Refusal :=
  whenEnabled (.getProtocol e) s fun s => respond [s.proto.get e] s

/-- SET_REPORT of type Output on the keyboard interface (R234). -/
def execSetReport (data : Byte) (s : State) : Host.Outcome State Fault Refusal :=
  whenEnabled (.setReport data) s (acceptOutputReport data)

/-- SET_IDLE (R232). -/
def execSetIdle (e : Endpoint) (rate : Byte) (s : State) : Host.Outcome State Fault Refusal :=
  whenEnabled (.setIdle e rate) s fun s => emit (.ctl .ack) { s with idle := s.idle.set e rate }

/-- SET_PROTOCOL (R236): any byte is stored (R32). -/
def execSetProtocol (e : Endpoint) (proto : Byte) (s : State) : Host.Outcome State Fault Refusal :=
  whenEnabled (.setProtocol e proto) s fun s => emit (.ctl .ack) { s with proto := s.proto.set e proto }

/-- REJECT (R237). -/
def execReject (req iface : Byte) (value : BitVec 16) (s : State) : Host.Outcome State Fault Refusal :=
  whenEnabled (.reject req iface value) s fun s =>
    emit (.ctl .reject) (raiseCond (.unsupportedRequest req iface value) s)

/-- ACTIVATE (R240). -/
def execActivate (e : Endpoint) (s : State) : Host.Outcome State Fault Refusal :=
  whenEnabled (.activate e) s fun s => { s with idle := s.idle.set e 0x00, proto := s.proto.set e 0x01 }

end Sys2Proof.Machine
end

