-- ==== Sys2Proof/Machine/Keyboard.lean ====
section
/-! DEFINITION. The keyboard report operations PRESS, RELEASE, RELEASE_ALL (42_keyboard_report.md), each yielding its
status, and their meanings as operation words of format KOP10 (R92), which no port carries: the decoder alone invokes them,
inside a KRX step (R8). -/

namespace Sys2Proof.Machine

/-- `kmod` with bit `i` set. -/
def setModifier (kmod : Byte) (i : BitVec 3) : Byte :=
  kmod ||| (1#8 <<< i.toNat)

/-- `kmod` with bit `i` clear. -/
def clearModifier (kmod : Byte) (i : BitVec 3) : Byte :=
  kmod &&& ~~~(1#8 <<< i.toNat)

/-- PRESS `u` (R171). -/
def press (u : Byte) (s : State) : Status × State :=
  if u = 0x00 then (.noop, s)
  else if isModifier s.cfg u then
    if s.kmod.getLsbD (modBit s.cfg u).toNat then (.noop, s)
    else (.changed, transmitK { s with kmod := setModifier s.kmod (modBit s.cfg u) })
  else
    match slotOf s.kkey u with
    | some _ => (.noop, s)
    | none =>
      match slotOf s.kkey 0x00 with
      | some j => (.changed, transmitK { s with kkey := s.kkey.set j u })
      | none => (.overflow, raiseCond (.keyTableOverflow u) s)

/-- RELEASE `u` (R172). -/
def release (u : Byte) (s : State) : Status × State :=
  if u = 0x00 then (.noop, s)
  else if isModifier s.cfg u then
    if s.kmod.getLsbD (modBit s.cfg u).toNat then
      (.changed, transmitK { s with kmod := clearModifier s.kmod (modBit s.cfg u) })
    else (.noop, s)
  else
    match slotOf s.kkey u with
    | some j => (.changed, transmitK { s with kkey := s.kkey.set j 0x00 })
    | none => (.noop, s)

/-- The keyboard report is all zero (R173, R24). -/
def allReleased (s : State) : Bool :=
  s.kmod == 0x00 && s.kkey == Vector.replicate 6 0x00

/-- RELEASE_ALL (R173). -/
def releaseAll (s : State) : Status × State :=
  if allReleased s then (.noop, s)
  else (.changed, transmitK { s with kmod := 0x00, kkey := Vector.replicate 6 0x00 })

/-- PRESS as an operation word; its status is discarded (R170). -/
def execPress (u : Byte) (s : State) : Host.Outcome State Fault Refusal :=
  whenEnabled (.press u) s fun s => (press u s).2

/-- RELEASE as an operation word. -/
def execRelease (u : Byte) (s : State) : Host.Outcome State Fault Refusal :=
  whenEnabled (.release u) s fun s => (release u s).2

/-- RELEASE_ALL as an operation word. -/
def execReleaseAll (s : State) : Host.Outcome State Fault Refusal :=
  whenEnabled .releaseAll s fun s => (releaseAll s).2

end Sys2Proof.Machine
end

