-- ==== Sys2Proof/Machine/Decoder.lean ====
section
/-! DEFINITION. The byte forms of the keyboard line (41_decoder.md R143 to R152). -/

namespace Sys2Proof.Machine

/-- RESET_ACK, first byte (R144). -/
def execResetAck (s : State) : Host.Outcome State Fault Refusal :=
  whenEnabled .resetAck s (takeByte s.cfg.mResetAck (goto .argReset))

/-- LAYOUT_RESP, first byte (R145). -/
def execLayoutResp (s : State) : Host.Outcome State Fault Refusal :=
  whenEnabled .layoutResp s (takeByte s.cfg.mLayout (goto .argLayout))

/-- SELFTEST_FAIL, first byte (R146); the condition waits for the operand byte. -/
def execSelftestFail (s : State) : Host.Outcome State Fault Refusal :=
  whenEnabled .selftestFail s (takeByte s.cfg.mSelftestFail (goto .argFail))

/-- IDLE (R147): one combined release. -/
def execIdle (s : State) : Host.Outcome State Fault Refusal :=
  whenEnabled .idle s (takeByte s.cfg.mIdle fun s => goto .first (releaseAll s).2)

/-- The effect of a key transition `b` (R148, R149): the operation on the usage code, or the condition `UnmappedScancode`
where it is 0x00. -/
def keyTransition (b : Byte) (op : Byte → State → Status × State) (s : State) : State :=
  let u := usageOf s.cfg (b.extractLsb' 0 7)
  goto .first (if u = 0x00 then raiseCond (.unmappedScancode b) s else (op u s).2)

/-- KEY_DOWN (R148). -/
def execKeyDown (sc : BitVec 7) (s : State) : Host.Outcome State Fault Refusal :=
  whenEnabled (.keyDown sc) s (takeByte (0#1 ++ sc) (keyTransition (0#1 ++ sc) press))

/-- KEY_UP (R149). -/
def execKeyUp (sc : BitVec 7) (s : State) : Host.Outcome State Fault Refusal :=
  whenEnabled (.keyUp sc) s (takeByte (1#1 ++ sc) (keyTransition (1#1 ++ sc) release))

/-- The operand byte of a two-byte form (R150). -/
def execKrxOperand (v : Byte) (s : State) : Host.Outcome State Fault Refusal :=
  whenEnabled (.krxOperand v) s
    (takeByte v fun s => goto .first (if s.dstate = .argFail then raiseCond (.selfTestFailure v) s else s))

/-- KRX_FAIL (R152): the line's read fails for good. -/
def execKrxFail (s : State) : Host.Outcome State Fault Refusal :=
  whenEnabled .krxFail s (raiseCond .transportClosed)

end Sys2Proof.Machine
end

