-- ==== Sys2Proof/Machine/Events.lean ====
section
/-! DEFINITION. The bare events: RESET (R290), SETTLE (R141), KTX_ACCEPT (R247, R142), TX_DONE (R213). -/

namespace Sys2Proof.Machine

/-- RESET (R290): every piece of the block's state takes its reset value; the configuration and the model's own fields stay
(log 22). -/
def execReset (s : State) : Host.Outcome State Fault Refusal :=
  whenEnabled .reset s fun s =>
    { State.reset with
      cfg := s.cfg, pending := s.pending, probe := s.probe, outs := s.outs, raised := s.raised }

/-- SETTLE (R141). -/
def execSettle (s : State) : Host.Outcome State Fault Refusal :=
  whenEnabled .settle s sendReset

/-- The keyboard line takes the head byte (R247); the reset command's leaving opens the read loop (R142). -/
def acceptHead (s : State) : State :=
  match s.ktx with
  | [] => s
  | x :: rest =>
    emit (.ktx x.byte) { s with ktx := rest, dstate := if x.tag = .dec then .first else s.dstate }

/-- KTX_ACCEPT (R247). -/
def execKtxAccept (s : State) : Host.Outcome State Fault Refusal :=
  whenEnabled .ktxAccept s acceptHead

/-- TX_DONE(K) (R213); with nothing in flight it is ignored (R301). -/
def execTxDoneK (s : State) : Host.Outcome State Fault Refusal :=
  whenEnabled .txDoneK s fun s =>
    if s.inflight.k then { s with inflight := s.inflight.set .k false } else s

/-- TX_DONE(P) (R213): the deltas are consumed. -/
def execTxDoneP (s : State) : Host.Outcome State Fault Refusal :=
  whenEnabled .txDoneP s fun s =>
    if s.inflight.p then { zeroDeltas s with inflight := s.inflight.set .p false } else s

end Sys2Proof.Machine
end

