-- ==== Sys2Proof/Machine/Formats.lean ====
section
/-! DEFINITION. The rows of the opcode table that are data formats. A format the block produces is the action that produces
it, taken where the block produces exactly that word; a format presented inside another event is that event's effect
(DESIGN CHOICE, log 15 and log 16). -/

namespace Sys2Proof.Machine

/-- CMD_RESET: the sending of the reset command, "once" (R96, R141). -/
def execCmdReset (s : State) : Host.Outcome State Fault Refusal :=
  whenEnabled .cmdReset s sendReset

/-- CMD_LEDS: the forwarding of the LED mask `m` (R96, R241). -/
def execCmdLeds (m : BitVec 4) (s : State) : Host.Outcome State Fault Refusal :=
  whenEnabled (.cmdLeds m) s (pushKtx [⟨s.cfg.cmdLeds, .ctl⟩, ⟨m.setWidth 8, .ctl⟩])

/-- KBD_REPORT: the emission of the keyboard report (R97, R211). -/
def execKbdReport (kmod k0 k1 k2 k3 k4 k5 : Byte) (s : State) : Host.Outcome State Fault Refusal :=
  whenEnabled (.kbdReport kmod k0 k1 k2 k3 k4 k5) s transmitK

/-- PTR_REPORT: the emission of the pointer report (R98, R212). -/
def execPtrReport (btn : BitVec 3) (dx dy wheel pan : Byte) (s : State) : Host.Outcome State Fault Refusal :=
  whenEnabled (.ptrReport btn dx dy wheel pan) s transmitP

/-- OUTPUT_REPORT: the data byte that completes a SET_REPORT (R99, R234). -/
def execOutputReport (data : Byte) (s : State) : Host.Outcome State Fault Refusal :=
  whenEnabled (.outputReport data) s (acceptOutputReport data)

/-- SUN_LED_MASK: the packer's result for the output report stored (R123). -/
def execSunLedMask (num compose scroll caps : Bool) (s : State) : Host.Outcome State Fault Refusal :=
  whenEnabled (.sunLedMask num compose scroll caps) s fun s => emit (.ledMask (hid2sunLeds s.oled)) s

/-- MOUSE_RAW: the button mapper's result (R125); it touches no register. -/
def execMouseRaw (raw : Byte) (s : State) : Host.Outcome State Fault Refusal :=
  whenEnabled (.mouseRaw raw) s fun s => emit (.mb (sun2hidMousebuttons s.cfg raw)) s

end Sys2Proof.Machine
end

