-- ==== Sys2Proof/Machine/Pointer.lean ====
section
/-! DEFINITION. The pointer report operations (43_pointer_report.md R190 to R195). No delta is ever added, scaled or
clamped (R195). -/

namespace Sys2Proof.Machine

/-- MOVE (R191). -/
def move (dx dy wheel pan : Byte) (s : State) : Status × State :=
  (.changed, transmitP
    { s with
      pdx := dx
      pdy := dy
      pwheel := if s.cfg.hasWheel then wheel else s.pwheel
      ppan := if s.cfg.hasPan then pan else s.ppan })

/-- SET_BUTTONS (R192): never transmits. -/
def setButtons (mask : BitVec 3) (s : State) : Status × State :=
  (.noop, { s with pbtn := mask })

/-- `n` is a button number, 1 to 3 (R91). -/
def isButton (n : Byte) : Bool :=
  n == 1 || n == 2 || n == 3

/-- The bit of button `n`, bit `n-1` (R25). -/
def buttonBit (n : Byte) : BitVec 3 :=
  1#3 <<< (n.toNat - 1)

/-- BUTTON_PRESS (R193). -/
def buttonPress (n : Byte) (s : State) : Status × State :=
  if isButton n then (.changed, transmitP (zeroDeltas { s with pbtn := s.pbtn ||| buttonBit n }))
  else (.noop, s)

/-- BUTTON_RELEASE (R194). -/
def buttonRelease (n : Byte) (s : State) : Status × State :=
  if isButton n then (.changed, transmitP (zeroDeltas { s with pbtn := s.pbtn &&& ~~~buttonBit n }))
  else (.noop, s)

/-- The event PTR_OP with MOVE. -/
def execMove (dx dy wheel pan : Byte) (s : State) : Host.Outcome State Fault Refusal :=
  whenEnabled (.move dx dy wheel pan) s fun s => (move dx dy wheel pan s).2

/-- The event PTR_OP with SET_BUTTONS. -/
def execSetButtons (mask : BitVec 3) (s : State) : Host.Outcome State Fault Refusal :=
  whenEnabled (.setButtons mask) s fun s => (setButtons mask s).2

/-- The event PTR_OP with BUTTON_PRESS. -/
def execButtonPress (n : Byte) (s : State) : Host.Outcome State Fault Refusal :=
  whenEnabled (.buttonPress n) s fun s => (buttonPress n s).2

/-- The event PTR_OP with BUTTON_RELEASE. -/
def execButtonRelease (n : Byte) (s : State) : Host.Outcome State Fault Refusal :=
  whenEnabled (.buttonRelease n) s fun s => (buttonRelease n s).2

end Sys2Proof.Machine
end

