-- ==== Sys2Proof/Machine/Dispatch.lean ====
section
/-! DEFINITION. The meaning of every instruction: one arm per constructor, one direct call each. -/

namespace Sys2Proof.Machine

def exec (i : Instr) (s : State) : Host.Outcome State Fault Refusal :=
  match i with
  | .resetAck => Sys2Proof.Machine.execResetAck s
  | .layoutResp => Sys2Proof.Machine.execLayoutResp s
  | .selftestFail => Sys2Proof.Machine.execSelftestFail s
  | .idle => Sys2Proof.Machine.execIdle s
  | .keyDown sc => Sys2Proof.Machine.execKeyDown sc s
  | .keyUp sc => Sys2Proof.Machine.execKeyUp sc s
  | .krxOperand v => Sys2Proof.Machine.execKrxOperand v s
  | .press u => Sys2Proof.Machine.execPress u s
  | .release u => Sys2Proof.Machine.execRelease u s
  | .releaseAll => Sys2Proof.Machine.execReleaseAll s
  | .move dx dy wheel pan => Sys2Proof.Machine.execMove dx dy wheel pan s
  | .setButtons mask => Sys2Proof.Machine.execSetButtons mask s
  | .buttonPress n => Sys2Proof.Machine.execButtonPress n s
  | .buttonRelease n => Sys2Proof.Machine.execButtonRelease n s
  | .getReport e => Sys2Proof.Machine.execGetReport e s
  | .getIdle e => Sys2Proof.Machine.execGetIdle e s
  | .getProtocol e => Sys2Proof.Machine.execGetProtocol e s
  | .setReport data => Sys2Proof.Machine.execSetReport data s
  | .setIdle e rate => Sys2Proof.Machine.execSetIdle e rate s
  | .setProtocol e proto => Sys2Proof.Machine.execSetProtocol e proto s
  | .reject req iface value => Sys2Proof.Machine.execReject req iface value s
  | .reset => Sys2Proof.Machine.execReset s
  | .settle => Sys2Proof.Machine.execSettle s
  | .ktxAccept => Sys2Proof.Machine.execKtxAccept s
  | .krxFail => Sys2Proof.Machine.execKrxFail s
  | .txDoneK => Sys2Proof.Machine.execTxDoneK s
  | .txDoneP => Sys2Proof.Machine.execTxDoneP s
  | .activate e => Sys2Proof.Machine.execActivate e s
  | .cmdReset => Sys2Proof.Machine.execCmdReset s
  | .cmdLeds m => Sys2Proof.Machine.execCmdLeds m s
  | .kbdReport kmod k0 k1 k2 k3 k4 k5 => Sys2Proof.Machine.execKbdReport kmod k0 k1 k2 k3 k4 k5 s
  | .ptrReport btn dx dy wheel pan => Sys2Proof.Machine.execPtrReport btn dx dy wheel pan s
  | .outputReport data => Sys2Proof.Machine.execOutputReport data s
  | .sunLedMask num compose scroll caps => Sys2Proof.Machine.execSunLedMask num compose scroll caps s
  | .mouseRaw raw => Sys2Proof.Machine.execMouseRaw raw s

end Sys2Proof.Machine
end

