-- ==== Sys2Proof/Machine/Fetch.lean ====
section
/-! DEFINITION. Which offered event is taken next, and how a word is placed so that the very next step takes it. The block
fetches nothing from a memory (R75): its instructions are the frames offered at its ports (R13). What is internal to a step or
produced by the block is never taken from the ports (R8). -/

namespace Sys2Proof.Machine

/-- The frame can be taken now: it stands on an input port (R8, R81) and decodes to an event that is enabled (R7). A word that
no input port ever carries is taken as well, so that the step faults on it by name (log 20). -/
def frameReady (s : State) (f : Frame) : Bool :=
  f.isInput && match decode s.cfg s.dstate f with
    | .ok i => enabled i s
    | .error _ => true

/-- The frame taken next from the frames offered, and the frames left: the first one that can be taken and has no earlier
frame waiting on its own port. `held` are the ports on which an earlier frame waits (D32, R154: what is behind it on the
port waits too). Every order of the ports is some order of the list, so all of them are covered (R7, R267; log 12). -/
def pick (s : State) (held : List Port) : List Frame → Option (Frame × List Frame)
  | [] => none
  | f :: fs =>
    if held.contains f.port || !frameReady s f then
      (pick s (f.port :: held) fs).map fun r => (r.1, f :: r.2)
    else some (f, fs)

/-- What the next step runs, and the state without it: the word placed in `probe` if there is one (log 15), else the offered
event taken next. -/
def takeNext (s : State) : Option (Frame × State) :=
  match s.probe with
  | some f => some (f, { s with probe := none })
  | none => (pick s [] s.pending).map fun r => (r.1, { s with pending := r.2 })

/-- The queue without the control context's bytes, so that CTL is not busy (R248). -/
def idleCtl (s : State) : State :=
  { s with ktx := s.ktx.filter fun x => x.tag != .ctl }

/-- The condition under which the port of `f` takes it, set in `s` and nothing else (log 18): the decoder expects a first
byte, the guard of the endpoint is free, the control context is idle, or the registers hold what the produced word shows. -/
def makeReady (f : Frame) (s : State) : State :=
  match f with
  | .krx _ | .kop _ => { s with dstate := .first, inflight := s.inflight.set .k false }
  | .pop _ => { s with inflight := s.inflight.set .p false }
  | .ctl w data =>
    match decodeCtl s.cfg w data with
    | .getReport e => { idleCtl s with inflight := s.inflight.set e false }
    | _ => idleCtl s
  | .ktx16 w =>
    { idleCtl s with oled := (s.oled &&& 0xF0#8) ||| hid2sunLeds ((w.extractLsb' 0 4).setWidth 8) }
  | .krpt w =>
    { s with
      inflight := s.inflight.set .k false
      kmod := laneByte w 0
      kkey := #v[laneByte w 2, laneByte w 3, laneByte w 4, laneByte w 5, laneByte w 6, laneByte w 7] }
  | .prpt w =>
    { s with
      inflight := s.inflight.set .p false
      pbtn := (laneByte w 0).extractLsb' 0 3
      pdx := laneByte w 1
      pdy := laneByte w 2
      pwheel := if s.cfg.hasWheel then laneByte w 3 else s.pwheel
      ppan := if s.cfg.hasPan then laneByte w (3 + s.cfg.hasWheel.toNat) else s.ppan }
  | _ => s

/-- `f` alone, ready to be taken: at its port where it has an input port, in `probe` where it has none. -/
def offerReady (f : Frame) (s : State) : State :=
  if f.isInput then { makeReady f s with pending := [f], probe := none } else { makeReady f s with probe := some f }

end Sys2Proof.Machine
end

