-- ==== Sys2Proof/Machine/Step.lean ====
section
/-! DEFINITION. One step of the block: the event taken next, atomically (R7). -/

namespace Sys2Proof.Machine

/-- One step. Where no offered event is enabled, nothing changes (R7, R275; log 13). -/
def step (s : State) : Host.Outcome State Fault Refusal :=
  match takeNext s with
  | none => .next s
  | some (f, s') =>
    match decode s.cfg s.dstate f with
    | .ok i => exec i s'
    | .error e => .fault (.impossibleWord e)

/-- `s` with a word of the opcode table placed where the very next step takes it, and ready to be taken (log 18). -/
def State.withFetchWord (s : State) (nbits w : Nat) : State :=
  match frameOfTableWord nbits w with
  | some f => offerReady f s
  | none => s

end Sys2Proof.Machine
end

