-- ==== Sys2Proof/Machine/Trace.lean ====
section
/-! DEFINITION. The inputs of the trace notation (R110) and its pseudo-forms (R111), as frames to offer. -/

namespace Sys2Proof.Machine

/-- `rx BB`. -/
def rx (b : Byte) : Frame := .krx b

/-- `rxfail`. -/
def rxfail : Frame := .krxFail 1

/-- `ktx`: the line takes the head byte. -/
def ktxTake : Frame := .ktxHandshake 3

/-- `ptr move DX DY W P`, signed decimals in -128..127 (R110). How a driver brings a wider motion value to a signed byte, clamping
or wrapping, is not in the source (R195); this helper wraps it modulo 256 (DESIGN CHOICE, log 27). -/
def ptrMove (dx dy w p : Int) : Frame :=
  .pop (0#2 ++ (BitVec.ofInt 8 dx ++ (BitVec.ofInt 8 dy ++ (BitVec.ofInt 8 w ++ BitVec.ofInt 8 p))))

/-- `ptr setb MM`, all eight bits of the operand given. -/
def ptrSetb (m : Byte) : Frame := .pop (1#2 ++ (m ++ 0#24))

/-- `ptr bpress N`. -/
def ptrBpress (n : Byte) : Frame := .pop (2#2 ++ (n ++ 0#24))

/-- `ptr brel N`. -/
def ptrBrel (n : Byte) : Frame := .pop (3#2 ++ (n ++ 0#24))

/-- `done K` and `done P`. -/
def done : Endpoint → Frame
  | .k => .krptDone 1
  | .p => .prptDone 1

/-- `ctl REQ IF VVVV DD`. -/
def ctl (req iface : Byte) (value : BitVec 16) (data : Byte) : Frame :=
  .ctl (req ++ (iface ++ value)) data

/-- `act K` and `act P`. -/
def act : Endpoint → Frame
  | .k => .act 2
  | .p => .act 3

/-- `boot`: reset, settle, ktx. -/
def boot : List Frame := [.rst 1, .settleDone 1, ktxTake]

/-- `kd SS`. -/
def kd (sc : BitVec 7) : Frame := rx (0#1 ++ sc)

/-- `ku SS`: `rx (80 | SS)`. -/
def ku (sc : BitVec 7) : Frame := rx (0x80#8 ||| (0#1 ++ sc))

/-- `leds MM`. -/
def leds (c : Config) (m : Byte) : Frame := ctl c.reqSetReport c.ifKbd 0x0200 m

/-- `flush`: `ktx` until the queue is empty. -/
def flush (s : State) : List Frame := List.replicate s.ktx.length ktxTake

end Sys2Proof.Machine
end

