-- ==== Sys2Proof/Safety.lean ====
section
/-! DEFINITION. What holds in every reachable state, and the words the claims about runs are stated in. -/

namespace Sys2Proof.Machine

/-- The keyboard report invariant of R24: non-zero slots are pairwise distinct, and none holds a modifier code. -/
def KeyboardInv (s : State) : Prop :=
  (∀ i j : Fin 6, s.kkey[i] ≠ 0x00 → s.kkey[i] = s.kkey[j] → i = j) ∧
  ∀ i : Fin 6, s.kkey[i] ≠ 0x00 → isModifier s.cfg s.kkey[i] = false

/-- The pointer report invariant of R29. -/
def PointerInv (s : State) : Prop :=
  s.inflight.p = false → s.pdx = 0x00 ∧ s.pdy = 0x00 ∧ s.pwheel = 0x00 ∧ s.ppan = 0x00

/-- A delta the build does not have stays zero (R27, log 7). -/
def BuildInv (s : State) : Prop :=
  (s.cfg.hasWheel = false → s.pwheel = 0x00) ∧ (s.cfg.hasPan = false → s.ppan = 0x00)

/-- The entry of the reset command (R141). -/
def resetEntry (s : State) : KtxEntry := ⟨s.cfg.cmdReset, .dec⟩

/-- The first byte of an LED command (R241). -/
def ledEntry (s : State) : KtxEntry := ⟨s.cfg.cmdLeds, .ctl⟩

/-- The second byte of an LED command (R241). -/
def maskEntry (s : State) : KtxEntry := ⟨hid2sunLeds s.oled, .ctl⟩

/-- What the transmit queue can hold (R245, R297): the reset command exactly while the decoder waits for it to leave, and at
most one LED command, whole or its second byte, never split by the reset command. -/
def QueueInv (s : State) : Prop :=
  if s.dstate = .resetTx then
    s.ktx = [resetEntry s] ∨ s.ktx = [ledEntry s, maskEntry s, resetEntry s] ∨
    s.ktx = [maskEntry s, resetEntry s] ∨ s.ktx = [resetEntry s, ledEntry s, maskEntry s]
  else s.ktx = [] ∨ s.ktx = [ledEntry s, maskEntry s] ∨ s.ktx = [maskEntry s]

/-- The invariant of the block: every step keeps it, and it holds after reset. -/
def BlockInv (s : State) : Prop :=
  configOk s.cfg = true ∧ KeyboardInv s ∧ PointerInv s ∧ BuildInv s ∧ QueueInv s

/-- The events of a run taken one after another, each answered before the next. -/
def execAll : List Instr → State → Host.Outcome State Fault Refusal
  | [], s => .next s
  | i :: is, s =>
    match exec i s with
    | .next t => execAll is t
    | .fault r => .fault r
    | .refused r => .refused r

/-- The number of keyboard reports emitted so far. -/
def kbdReports (s : State) : Nat :=
  s.outs.countP fun o => match o with
    | .krpt _ => true
    | _ => false

/-- The number of pointer reports emitted so far. -/
def ptrReports (s : State) : Nat :=
  s.outs.countP fun o => match o with
    | .prpt _ => true
    | _ => false

/-- The set of keys held, as a list without order, after one keyboard operation: what the operations of R171 to R173 mean
without slots (R174). A seventh non-modifier key is dropped. -/
def heldAfter (c : Config) (held : List Byte) : Instr → List Byte
  | .press u =>
    if u = 0x00 ∨ u ∈ held then held
    else if isModifier c u then u :: held
    else if (held.filter fun v => !isModifier c v).length < 6 then u :: held
    else held
  | .release u => held.filter fun v => v != u
  | .releaseAll => []
  | _ => held

/-- The registers show exactly the keys of `held` (R174). -/
def ShowsHeld (s : State) (held : List Byte) : Prop :=
  ∀ u : Byte, u ≠ 0x00 →
    (u ∈ held ↔
      if isModifier s.cfg u then s.kmod.getLsbD (modBit s.cfg u).toNat = true else ∃ i : Fin 6, s.kkey[i] = u)

/-- A keyboard operation word (R92). -/
def isKeyOp : Instr → Bool
  | .press _ | .release _ | .releaseAll => true
  | _ => false

/-- A byte of the keyboard line: the events KRX(b) (R8). -/
def isLineByte : Instr → Bool
  | .resetAck | .layoutResp | .selftestFail | .idle | .keyDown _ | .keyUp _ | .krxOperand _ => true
  | _ => false

/-- A pointer operation: the events PTR_OP (R8). -/
def isPointerOp : Instr → Bool
  | .move _ _ _ _ | .setButtons _ | .buttonPress _ | .buttonRelease _ => true
  | _ => false

/-- A class request: the events CTL (R8). -/
def isRequest : Instr → Bool
  | .getReport _ | .getIdle _ | .getProtocol _ | .setReport _ | .setIdle _ _ | .setProtocol _ _ | .reject _ _ _ => true
  | _ => false

/-- The columns of the access table (R40), and the combinational mapper, which touches no state. -/
inductive Agent where
  | decoder
  | pointer
  | control
  | completion
  | reset
  | mapper
deriving DecidableEq, Repr

/-- The agent whose rule an instruction is (R9, R40); an action internal to a step belongs to the agent of the step. -/
def agentOf : Instr → Agent
  | .resetAck | .layoutResp | .selftestFail | .idle | .keyDown _ | .keyUp _ | .krxOperand _ => .decoder
  | .press _ | .release _ | .releaseAll | .settle | .krxFail | .cmdReset | .kbdReport _ _ _ _ _ _ _ => .decoder
  | .move _ _ _ _ | .setButtons _ | .buttonPress _ | .buttonRelease _ | .ptrReport _ _ _ _ _ => .pointer
  | .getReport _ | .getIdle _ | .getProtocol _ | .setReport _ | .setIdle _ _ | .setProtocol _ _ => .control
  | .reject _ _ _ | .activate _ | .cmdLeds _ | .outputReport _ | .sunLedMask _ _ _ _ => .control
  | .ktxAccept | .txDoneK | .txDoneP => .completion
  | .reset => .reset
  | .mouseRaw _ => .mapper

end Sys2Proof.Machine
end

