-- ==== Sys2Proof/Certificates/Slice0/Obligations.lean ====
section
/-! DEFINITION. The statements for the provers. A statement of an event's result gives the whole next state as an update of
the state before it, so that it says at once what the event leaves unchanged; what the report arrays and the masks are is
written out from the rules. -/

open Sys2Proof Sys2Proof.Machine

/-! ### Reset and the invariant -/

/-- R290, R39: RESET is enabled in every state, gives every register the value of the table, emits nothing, and a late
completion after it is ignored. -/
def Obligations.ResetRestoresEveryRegister : Prop :=
  ∀ s : State, ∃ t, exec .reset s = .next t ∧
    t.kmod = 0x00 ∧ (∀ i : Fin 6, t.kkey[i] = 0x00) ∧ t.pbtn = 0 ∧
    t.pdx = 0x00 ∧ t.pdy = 0x00 ∧ t.pwheel = 0x00 ∧ t.ppan = 0x00 ∧ t.oled = 0x00 ∧
    t.idle.k = 0x00 ∧ t.idle.p = 0x00 ∧ t.proto.k = 0x01 ∧ t.proto.p = 0x01 ∧
    t.inflight.k = false ∧ t.inflight.p = false ∧ t.dstate = .settle ∧ t.ktx = [] ∧
    t.outs = s.outs ∧ exec .txDoneK t = .next t ∧ exec .txDoneP t = .next t

/-- R39 for the machine right after reset, with the invariant (its configuration is the model's choice, log 1 and log 2). -/
def Obligations.ResetStateMeetsTheInvariant : Prop :=
  BlockInv State.reset ∧
  State.reset.kmod = 0x00 ∧ (∀ i : Fin 6, State.reset.kkey[i] = 0x00) ∧ State.reset.pbtn = 0 ∧
  State.reset.pdx = 0x00 ∧ State.reset.pdy = 0x00 ∧ State.reset.pwheel = 0x00 ∧ State.reset.ppan = 0x00 ∧
  State.reset.oled = 0x00 ∧ State.reset.idle = ⟨0x00, 0x00⟩ ∧ State.reset.proto = ⟨0x01, 0x01⟩ ∧
  State.reset.inflight = ⟨false, false⟩ ∧ State.reset.dstate = .settle ∧ State.reset.ktx = []

/-- R24, R29, R245: every step keeps the invariant (key slots distinct and no modifiers, deltas zero while nothing is in
flight, the transmit queue one of its few forms, the configuration legal). -/
def Obligations.StepKeepsTheInvariant : Prop :=
  ∀ s t : State, BlockInv s → step s = .next t → BlockInv t

/-- R292: from any state the start-up sequence queues and sends exactly the reset command and opens the read loop; the
line is not read before. -/
def Obligations.StartUpOpensTheReadLoop : Prop :=
  ∀ s : State, ∃ a b c, exec .reset s = .next a ∧ exec .settle a = .next b ∧ exec .ktxAccept b = .next c ∧
    krxReady a = false ∧ krxReady b = false ∧ krxReady c = true ∧ c.dstate = .first ∧ c.ktx = [] ∧
    c.outs = s.outs ++ [.ktx s.cfg.cmdReset] ∧
    ∀ b' : Byte, ∀ i, decode a.cfg a.dstate (.krx b') = .ok i → exec i a = .next a

/-! ### Encoding -/

/-- R82 to R99: decoding the frame of a well-formed instruction gives it back, for every instruction, every operand, every
legal configuration and every decoder state in which its word is read as that instruction. -/
def Obligations.DecodeEncodeRoundTrip : Prop :=
  ∀ (c : Config) (d : DState) (i : Instr), configOk c = true → i.wf c = true → i.inContext d = true →
    decode c d (encode c i) = .ok i

/-- Words written out from the formats of R81 to R99, at the default configuration of R5: the markers (so that 0x4D and 0xCD
are key transitions) and CMD_LEDS 0x0E are PRESUMED (log 3), the SET_IDLE code 0x0A is PRESUMED and the interface numbers are
the spec's choice (log 5), and so is the three-byte pointer report (log 7). -/
def Obligations.WordsDecodeAsWritten : Prop :=
  decode Config.default .first (.krx 0b01001101) = .ok (.keyDown 0x4D) ∧
  decode Config.default .first (.krx 0b11001101) = .ok (.keyUp 0x4D) ∧
  decode Config.default .argFail (.krx 0b01111111) = .ok (.krxOperand 0x7F) ∧
  decode Config.default .first (.kop 0b0100000111) = .ok (.release 0x07) ∧
  decode Config.default .first (.pop 0x0807F0000) = .ok (.move 0x80 0x7F 0x00 0x00) ∧
  decode Config.default .first (.ctl 0x0A007D00 0x00) = .ok (.setIdle .k 0x7D) ∧
  decode Config.default .first (.act 0b11) = .ok (.activate .p) ∧
  decode Config.default .first (.ktx16 0x0E09) = .ok (.cmdLeds 9) ∧
  decode Config.default .first (.prpt 0xFD0501) = .ok (.ptrReport 1 0x05 0xFD 0x00 0x00)

/-- R82, R143: the first byte of a form, offered while the decoder expects one and no keyboard report is in flight, is
consumed in one step by the first test of R82 that holds: an unexpected byte halts the decoder; the markers come before
the key transitions; bit 7 tells KEY_UP from KEY_DOWN. -/
def Obligations.FirstByteSelectsItsForm : Prop :=
  ∀ (s : State) (b : Byte) (rest : List Frame), s.dstate = .first → s.inflight.k = false → s.probe = none →
    s.pending = .krx b :: rest →
    let s' := { s with pending := rest }
    ((DState.first, b) ∈ s.cfg.unexpected →
      step s = .next { s' with dstate := .halt, raised := s.raised ++ [.transportUnexpected b] }) ∧
    ((DState.first, b) ∉ s.cfg.unexpected →
      (b = s.cfg.mResetAck → step s = exec .resetAck s') ∧
      (b ≠ s.cfg.mResetAck → b = s.cfg.mLayout → step s = exec .layoutResp s') ∧
      (b ≠ s.cfg.mResetAck → b ≠ s.cfg.mLayout → b = s.cfg.mSelftestFail → step s = exec .selftestFail s') ∧
      (b ≠ s.cfg.mResetAck → b ≠ s.cfg.mLayout → b ≠ s.cfg.mSelftestFail → b = s.cfg.mIdle →
        step s = exec .idle s') ∧
      (b ≠ s.cfg.mResetAck → b ≠ s.cfg.mLayout → b ≠ s.cfg.mSelftestFail → b ≠ s.cfg.mIdle → b.getLsbD 7 = false →
        step s = exec (.keyDown (b.extractLsb' 0 7)) s') ∧
      (b ≠ s.cfg.mResetAck → b ≠ s.cfg.mLayout → b ≠ s.cfg.mSelftestFail → b ≠ s.cfg.mIdle → b.getLsbD 7 = true →
        step s = exec (.keyUp (b.extractLsb' 0 7)) s'))

/-- R94: which request a selection word selects; every other combination is REJECT. -/
def Obligations.RequestWordSelection : Prop :=
  ∀ (c : Config) (d : DState) (req iface hi lo data : Byte), configOk c = true →
    let got := decode c d (.ctl (req ++ (iface ++ (hi ++ lo))) data)
    let at_ := fun (e : Endpoint) => iface = (match e with | .k => c.ifKbd | .p => c.ifPtr)
    (∀ e, at_ e → req = c.reqGetReport → hi = 0x01 → got = .ok (.getReport e)) ∧
    (∀ e, at_ e → req = c.reqGetIdle → got = .ok (.getIdle e)) ∧
    (∀ e, at_ e → req = c.reqGetProtocol → got = .ok (.getProtocol e)) ∧
    (iface = c.ifKbd → req = c.reqSetReport → hi = 0x02 → got = .ok (.setReport data)) ∧
    (∀ e, at_ e → req = c.reqSetIdle → got = .ok (.setIdle e hi)) ∧
    (∀ e, at_ e → req = c.reqSetProtocol → got = .ok (.setProtocol e lo)) ∧
    (((iface ≠ c.ifKbd ∧ iface ≠ c.ifPtr) ∨ (req = c.reqGetReport ∧ hi ≠ 0x01) ∨
        (req = c.reqSetReport ∧ (hi ≠ 0x02 ∨ iface ≠ c.ifKbd)) ∨
        (req ≠ c.reqGetReport ∧ req ≠ c.reqGetIdle ∧ req ≠ c.reqGetProtocol ∧ req ≠ c.reqSetReport ∧
          req ≠ c.reqSetIdle ∧ req ≠ c.reqSetProtocol)) →
      got = .ok (.reject req iface (hi ++ lo)))

/-- R63: byte `i` of a report is on lanes `[8i+7:8i]` of the bus that carries it, on the endpoint's own bus and on that of a
response. -/
def Obligations.ReportBytesOnTheirLanes : Prop :=
  ∀ (s : State) (i : Nat), configOk s.cfg = true →
    (∀ h : i < (keyboardReport s).length, laneByte (krptData s) i = (keyboardReport s)[i]) ∧
    (∀ h : i < (pointerReport s).length, laneByte (prptData s) i = (pointerReport s)[i]) ∧
    ∀ e, ∀ h : i < (reportOf e s).length, laneByte (CtlRsp.data (reportOf e s)).rdata i = (reportOf e s)[i]

/-! ### The step -/

/-- R7: an offered frame at the head that decodes to an enabled event is taken, and the step is that event's meaning; a word
of another format, placed to be run by itself, is run as its action and is gone (R92; log 15). -/
def Obligations.StepRunsTheDecodedEvent : Prop :=
  ∀ (s : State) (f : Frame) (rest : List Frame) (i : Instr), decode s.cfg s.dstate f = .ok i →
    (s.probe = none → s.pending = f :: rest → f.isInput = true → enabled i s = true →
      step s = exec i { s with pending := rest }) ∧
    (s.probe = some f → step s = exec i { s with probe := none })

/-- R7, R266 (the order of the offered list is the model's, log 12): frames that wait hold up their own ports only; the
first ready frame of another port is taken past them, and they stay offered in their order. -/
def Obligations.WaitingFramesHoldOnlyTheirPorts : Prop :=
  ∀ (s : State) (pre post : List Frame) (f : Frame) (i : Instr), s.probe = none → s.pending = pre ++ f :: post →
    (∀ g ∈ pre, g.port ≠ f.port ∧
      (g.isInput = false ∨ ∃ j, decode s.cfg s.dstate g = .ok j ∧ enabled j s = false)) →
    f.isInput = true → decode s.cfg s.dstate f = .ok i → enabled i s = true →
    step s = exec i { s with pending := pre ++ post }

/-- R7: when every offered event is disabled, no event has a step and nothing changes (that the model's step then answers the
same state is log 13). -/
def Obligations.NothingEnabledChangesNothing : Prop :=
  ∀ s : State, s.probe = none →
    (∀ f ∈ s.pending, f.isInput = false ∨ ∃ i, decode s.cfg s.dstate f = .ok i ∧ enabled i s = false) →
    step s = .next s

/-- R7: an event whose condition is false has no step (that its meaning then answers the same state is log 11). -/
def Obligations.DisabledEventsChangeNothing : Prop :=
  ∀ (i : Instr) (s : State), enabled i s = false → exec i s = .next s

/-- R8: the enabling condition of every event, for the event every word of its port decodes to. -/
def Obligations.EnablingConditions : Prop :=
  ∀ s : State,
    enabled .reset s = true ∧
    (enabled .settle s = true ↔ s.dstate = .settle) ∧
    (enabled .ktxAccept s = true ↔ s.ktx ≠ []) ∧
    (∀ (b : Byte) (i : Instr), decode s.cfg s.dstate (.krx b) = .ok i →
      (enabled i s = true ↔
        (s.dstate = .first ∨ s.dstate = .argReset ∨ s.dstate = .argLayout ∨ s.dstate = .argFail) ∧
          s.inflight.k = false)) ∧
    (enabled .krxFail s = true ↔
      (s.dstate = .first ∨ s.dstate = .argReset ∨ s.dstate = .argLayout ∨ s.dstate = .argFail) ∧
        s.inflight.k = false) ∧
    (∀ (w : BitVec 34) (i : Instr), decode s.cfg s.dstate (.pop w) = .ok i →
      (enabled i s = true ↔ s.inflight.p = false)) ∧
    enabled .txDoneK s = true ∧ enabled .txDoneP s = true ∧
    (∀ (w : BitVec 32) (data : Byte) (i : Instr), decode s.cfg s.dstate (.ctl w data) = .ok i →
      (enabled i s = true ↔
        (∀ x ∈ s.ktx, x.tag ≠ .ctl) ∧ ∀ e, i = .getReport e → s.inflight.get e = false)) ∧
    ∀ e, enabled (.activate e) s = true

/-- R61, R75, R70: no step writes the ROM: every index reads as before; and no instruction reads an entry at the low seven bits of
a marker: on a ROM that differs in those entries alone every instruction goes the same way. Where such a scancode still makes a
key transition (a marker with bit 7 flipped that is no marker), the transition completes as one of some usage code, which the
model leaves open (log 26). -/
def Obligations.NoStepWritesTheRomOrReadsADeadEntry : Prop :=
  (∀ s t : State, step s = .next t → ∀ a : Nat, Memory.read t.cfg.scanrom a = Memory.read s.cfg.scanrom a) ∧
  (∀ (i : Instr) (s t : State) (rom : Memory),
    (∀ sc : BitVec 7,
      (∀ m ∈ [s.cfg.mIdle, s.cfg.mResetAck, s.cfg.mLayout, s.cfg.mSelftestFail], m.extractLsb' 0 7 ≠ sc) →
      Memory.read rom sc.toNat = Memory.read s.cfg.scanrom sc.toNat) →
    exec i s = .next t →
    exec i { s with cfg := { s.cfg with scanrom := rom } } = .next { t with cfg := { t.cfg with scanrom := rom } }) ∧
  ∀ (s : State) (sc : BitVec 7), s.dstate = .first → s.inflight.k = false →
    (∃ m ∈ [s.cfg.mIdle, s.cfg.mResetAck, s.cfg.mLayout, s.cfg.mSelftestFail], m.extractLsb' 0 7 = sc) →
    ∃ u : Byte,
      ((DState.first, 0#1 ++ sc) ∉ s.cfg.unexpected →
        (u = 0x00 → exec (.keyDown sc) s = .next { s with raised := s.raised ++ [.unmappedScancode (0#1 ++ sc)] }) ∧
        (u ≠ 0x00 → ∃ t, exec (.keyDown sc) s = .next t ∧ exec (.press u) s = .next t ∧ t.dstate = .first)) ∧
      ((DState.first, 1#1 ++ sc) ∉ s.cfg.unexpected →
        (u = 0x00 → exec (.keyUp sc) s = .next { s with raised := s.raised ++ [.unmappedScancode (1#1 ++ sc)] }) ∧
        (u ≠ 0x00 → ∃ t, exec (.keyUp sc) s = .next t ∧ exec (.release u) s = .next t ∧ t.dstate = .first))

/-! ### The decoder -/

/-- R141: SETTLE queues the reset command and waits for the line to take it; in any other state it is not enabled and has no
effect; the queue has room. -/
def Obligations.SettleQueuesTheResetCommand : Prop :=
  ∀ s : State,
    (s.dstate = .settle →
      exec .settle s = .next { s with ktx := s.ktx ++ [⟨s.cfg.cmdReset, .dec⟩], dstate := .resetTx }) ∧
    (s.dstate ≠ .settle → exec .settle s = .next s) ∧
    (BlockInv s → s.dstate = .settle → s.ktx.length + 1 ≤ s.cfg.ktxDepth)

/-- R247, R142: the line takes the head byte of the queue; the reset command's leaving, and no other byte's, opens the read
loop. -/
def Obligations.LineTakesTheHeadByte : Prop :=
  ∀ (s : State) (b : Byte) (rest : List KtxEntry),
    (enabled .ktxAccept s = true ↔ s.ktx ≠ []) ∧
    (s.ktx = ⟨b, .dec⟩ :: rest →
      exec .ktxAccept s = .next { s with ktx := rest, outs := s.outs ++ [.ktx b], dstate := .first }) ∧
    (s.ktx = ⟨b, .ctl⟩ :: rest →
      exec .ktxAccept s = .next { s with ktx := rest, outs := s.outs ++ [.ktx b] })

/-- R144, R145, R146: a marker with an operand changes `dstate` alone. -/
def Obligations.MarkersOpenTheirOperandState : Prop :=
  ∀ s : State, s.dstate = .first → s.inflight.k = false →
    ((DState.first, s.cfg.mResetAck) ∉ s.cfg.unexpected → exec .resetAck s = .next { s with dstate := .argReset }) ∧
    ((DState.first, s.cfg.mLayout) ∉ s.cfg.unexpected → exec .layoutResp s = .next { s with dstate := .argLayout }) ∧
    ((DState.first, s.cfg.mSelftestFail) ∉ s.cfg.unexpected →
      exec .selftestFail s = .next { s with dstate := .argFail })

/-- R150, R89: an operand byte of any value is consumed and discarded; only a self-test error code raises its condition. -/
def Obligations.OperandByteReturnsToTheReadLoop : Prop :=
  ∀ (s : State) (v : Byte), s.inflight.k = false →
    ((s.dstate = .argReset ∨ s.dstate = .argLayout) → (s.dstate, v) ∉ s.cfg.unexpected →
      exec (.krxOperand v) s = .next { s with dstate := .first }) ∧
    (s.dstate = .argFail → (s.dstate, v) ∉ s.cfg.unexpected →
      exec (.krxOperand v) s = .next { s with dstate := .first, raised := s.raised ++ [.selfTestFailure v] }) ∧
    ((s.dstate = .argReset ∨ s.dstate = .argLayout ∨ s.dstate = .argFail) →
      decode s.cfg s.dstate (.krx v) = .ok (.krxOperand v))

/-- R151: an unexpected byte, in any state of the read loop and whatever its form, halts the decoder and changes nothing
else. -/
def Obligations.UnexpectedByteHaltsTheDecoder : Prop :=
  ∀ (s : State) (b : Byte) (i : Instr), s.dstate.reads = true → s.inflight.k = false →
    decode s.cfg s.dstate (.krx b) = .ok i → (s.dstate, b) ∈ s.cfg.unexpected →
    exec i s = .next { s with dstate := .halt, raised := s.raised ++ [.transportUnexpected b] }

/-- R152: a terminal failure of the line halts the decoder, also between a marker and its operand, and changes nothing
else. -/
def Obligations.LineFailureHaltsTheDecoder : Prop :=
  ∀ s : State, s.inflight.k = false →
    (s.dstate = .first ∨ s.dstate = .argReset ∨ s.dstate = .argLayout ∨ s.dstate = .argFail) →
    exec .krxFail s = .next { s with dstate := .halt, raised := s.raised ++ [.transportClosed] }

/-- R153: in `D_HALT` the line is not read and SETTLE is not enabled; the events of the other agents have the effect they have
in any other decoder state; only RESET leaves the state. -/
def Obligations.HaltIsLeftOnlyByReset : Prop :=
  ∀ s : State, s.dstate = .halt →
    khalted s = true ∧ krxReady s = false ∧ enabled .krxFail s = false ∧ enabled .settle s = false ∧
    (∀ i, isLineByte i = true → enabled i s = false) ∧
    (∀ i d, (isPointerOp i = true ∨ isRequest i = true ∨ (i = .ktxAccept ∧ BlockInv s) ∨ i = .txDoneK ∨ i = .txDoneP ∨
        ∃ e, i = .activate e) →
      enabled i { s with dstate := d } = enabled i s ∧
      ∃ t, exec i s = .next t ∧ exec i { s with dstate := d } = .next { t with dstate := d }) ∧
    (BlockInv s → ∀ i t, i ≠ .reset → exec i s = .next t → t.dstate = .halt)

/-- R154: while a keyboard report is in flight no byte is taken from the line, whatever its class. -/
def Obligations.ReportInFlightHoldsTheLine : Prop :=
  ∀ s : State, s.inflight.k = true →
    krxReady s = false ∧ ∀ (b : Byte) (i : Instr), decode s.cfg s.dstate (.krx b) = .ok i → enabled i s = false

/-- R147: the idle marker releases everything in one step and one report; with nothing pressed it emits nothing. -/
def Obligations.IdleMarkerReleasesEverythingAtOnce : Prop :=
  ∀ s : State, s.dstate = .first → s.inflight.k = false → (DState.first, s.cfg.mIdle) ∉ s.cfg.unexpected →
    ((s.kmod = 0x00 ∧ ∀ i : Fin 6, s.kkey[i] = 0x00) → exec .idle s = .next s) ∧
    (¬ (s.kmod = 0x00 ∧ ∀ i : Fin 6, s.kkey[i] = 0x00) →
      exec .idle s = .next
        { s with
          kmod := 0x00
          kkey := #v[0x00, 0x00, 0x00, 0x00, 0x00, 0x00]
          outs := s.outs ++ [.krpt [0x00, 0x00, 0x00, 0x00, 0x00, 0x00, 0x00, 0x00]]
          inflight := { s.inflight with k := true } })

/-- R148: a key-down presses the usage code the ROM gives; an unmapped scancode is dropped. The scancodes whose entries are dead
(R70) are in NoStepWritesTheRomOrReadsADeadEntry. -/
def Obligations.KeyDownPressesTheMappedCode : Prop :=
  ∀ (s : State) (sc : BitVec 7), s.dstate = .first → s.inflight.k = false →
    (∀ m ∈ [s.cfg.mIdle, s.cfg.mResetAck, s.cfg.mLayout, s.cfg.mSelftestFail], m.extractLsb' 0 7 ≠ sc) →
    (DState.first, 0#1 ++ sc) ∉ s.cfg.unexpected →
    (Memory.read s.cfg.scanrom sc.toNat = 0x00 →
      exec (.keyDown sc) s = .next { s with raised := s.raised ++ [.unmappedScancode (0#1 ++ sc)] }) ∧
    (Memory.read s.cfg.scanrom sc.toNat ≠ 0x00 →
      ∃ t, exec (.keyDown sc) s = .next t ∧ exec (.press (Memory.read s.cfg.scanrom sc.toNat)) s = .next t ∧
        t.dstate = .first)

/-- R149: a key-up releases the usage code the ROM gives; an unmapped scancode is dropped. The scancodes whose entries are dead
(R70) are in NoStepWritesTheRomOrReadsADeadEntry. -/
def Obligations.KeyUpReleasesTheMappedCode : Prop :=
  ∀ (s : State) (sc : BitVec 7), s.dstate = .first → s.inflight.k = false →
    (∀ m ∈ [s.cfg.mIdle, s.cfg.mResetAck, s.cfg.mLayout, s.cfg.mSelftestFail], m.extractLsb' 0 7 ≠ sc) →
    (DState.first, 1#1 ++ sc) ∉ s.cfg.unexpected →
    (Memory.read s.cfg.scanrom sc.toNat = 0x00 →
      exec (.keyUp sc) s = .next { s with raised := s.raised ++ [.unmappedScancode (1#1 ++ sc)] }) ∧
    (Memory.read s.cfg.scanrom sc.toNat ≠ 0x00 →
      ∃ t, exec (.keyUp sc) s = .next t ∧ exec (.release (Memory.read s.cfg.scanrom sc.toNat)) s = .next t ∧
        t.dstate = .first)

/-- R140: every change of `dstate` is a line of the table (transitions from `D_FIRST` to itself are no change). The table has
SETTLE alone where the statement has SETTLE or CMD_RESET: CMD_RESET as an action of its own, the sending that SETTLE makes,
is the model's (log 15). -/
def Obligations.DecoderMovesOnlyAlongItsTable : Prop :=
  ∀ (i : Instr) (s t : State), BlockInv s → exec i s = .next t →
    t.dstate = s.dstate ∨
    (i = .reset ∧ t.dstate = .settle) ∨
    ((i = .settle ∨ i = .cmdReset) ∧ s.dstate = .settle ∧ t.dstate = .resetTx) ∨
    (i = .ktxAccept ∧ s.dstate = .resetTx ∧ t.dstate = .first ∧ s.ktx.head? = some ⟨s.cfg.cmdReset, .dec⟩) ∨
    (i = .resetAck ∧ s.dstate = .first ∧ t.dstate = .argReset) ∨
    (i = .layoutResp ∧ s.dstate = .first ∧ t.dstate = .argLayout) ∨
    (i = .selftestFail ∧ s.dstate = .first ∧ t.dstate = .argFail) ∨
    ((∃ v, i = .krxOperand v) ∧ (s.dstate = .argReset ∨ s.dstate = .argLayout ∨ s.dstate = .argFail) ∧
      t.dstate = .first) ∨
    (isLineByte i = true ∧ s.dstate.reads = true ∧ (s.dstate, krxByte s.cfg i) ∈ s.cfg.unexpected ∧
      t.dstate = .halt) ∨
    (i = .krxFail ∧ s.dstate.reads = true ∧ t.dstate = .halt)

/-! ### The keyboard report -/

/-- R171: PRESS, every case with its status: code 0 and keys already recorded change nothing; a modifier sets its bit; a
key takes the empty slot of least index; a seventh key is dropped. -/
def Obligations.PressRecordsTheKey : Prop :=
  ∀ (s : State) (u : Byte), s.dstate = .first → s.inflight.k = false →
    let base := s.cfg.modBase.toNat
    let modifier := base ≤ u.toNat ∧ u.toNat ≤ base + 7
    let bit := u.toNat - base
    (u = 0x00 → exec (.press u) s = .next s ∧ (press u s).1 = .noop) ∧
    (u ≠ 0x00 → modifier → s.kmod.getLsbD bit = true → exec (.press u) s = .next s ∧ (press u s).1 = .noop) ∧
    (u ≠ 0x00 → modifier → s.kmod.getLsbD bit = false →
      exec (.press u) s = .next
        { s with
          kmod := s.kmod ||| (1#8 <<< bit)
          outs := s.outs ++ [.krpt ((s.kmod ||| (1#8 <<< bit)) :: 0x00 :: s.kkey.toList)]
          inflight := { s.inflight with k := true } } ∧
      (press u s).1 = .changed) ∧
    (u ≠ 0x00 → ¬ modifier → (∃ i : Fin 6, s.kkey[i] = u) →
      exec (.press u) s = .next s ∧ (press u s).1 = .noop) ∧
    (u ≠ 0x00 → ¬ modifier → (∀ i : Fin 6, s.kkey[i] ≠ u) →
      ∀ j : Fin 6, s.kkey[j] = 0x00 → (∀ i : Fin 6, i < j → s.kkey[i] ≠ 0x00) →
        exec (.press u) s = .next
          { s with
            kkey := s.kkey.set j u
            outs := s.outs ++ [.krpt (s.kmod :: 0x00 :: (s.kkey.set j u).toList)]
            inflight := { s.inflight with k := true } } ∧
        (press u s).1 = .changed) ∧
    (u ≠ 0x00 → ¬ modifier → (∀ i : Fin 6, s.kkey[i] ≠ u) → (∀ i : Fin 6, s.kkey[i] ≠ 0x00) →
      exec (.press u) s = .next { s with raised := s.raised ++ [.keyTableOverflow u] } ∧
      (press u s).1 = .overflow)

/-- R172: RELEASE, every case with its status; the other five slots keep their values and places. -/
def Obligations.ReleaseForgetsTheKey : Prop :=
  ∀ (s : State) (u : Byte), s.dstate = .first → s.inflight.k = false →
    let base := s.cfg.modBase.toNat
    let modifier := base ≤ u.toNat ∧ u.toNat ≤ base + 7
    let bit := u.toNat - base
    (u = 0x00 → exec (.release u) s = .next s ∧ (release u s).1 = .noop) ∧
    (u ≠ 0x00 → modifier → s.kmod.getLsbD bit = false → exec (.release u) s = .next s ∧ (release u s).1 = .noop) ∧
    (u ≠ 0x00 → modifier → s.kmod.getLsbD bit = true →
      exec (.release u) s = .next
        { s with
          kmod := s.kmod &&& ~~~(1#8 <<< bit)
          outs := s.outs ++ [.krpt ((s.kmod &&& ~~~(1#8 <<< bit)) :: 0x00 :: s.kkey.toList)]
          inflight := { s.inflight with k := true } } ∧
      (release u s).1 = .changed) ∧
    (u ≠ 0x00 → ¬ modifier → (∀ i : Fin 6, s.kkey[i] ≠ u) →
      exec (.release u) s = .next s ∧ (release u s).1 = .noop) ∧
    (u ≠ 0x00 → ¬ modifier → ∀ j : Fin 6, s.kkey[j] = u → (∀ i : Fin 6, i < j → s.kkey[i] ≠ u) →
      exec (.release u) s = .next
        { s with
          kkey := s.kkey.set j 0x00
          outs := s.outs ++ [.krpt (s.kmod :: 0x00 :: (s.kkey.set j 0x00).toList)]
          inflight := { s.inflight with k := true } } ∧
      (release u s).1 = .changed)

/-- R173: RELEASE_ALL zeroes everything with a single report, and is a no-op on a report that is zero. -/
def Obligations.ReleaseAllZeroesTheReport : Prop :=
  ∀ s : State, s.dstate = .first → s.inflight.k = false →
    ((s.kmod = 0x00 ∧ ∀ i : Fin 6, s.kkey[i] = 0x00) →
      exec .releaseAll s = .next s ∧ (releaseAll s).1 = .noop) ∧
    (¬ (s.kmod = 0x00 ∧ ∀ i : Fin 6, s.kkey[i] = 0x00) →
      exec .releaseAll s = .next
        { s with
          kmod := 0x00
          kkey := #v[0x00, 0x00, 0x00, 0x00, 0x00, 0x00]
          outs := s.outs ++ [.krpt [0x00, 0x00, 0x00, 0x00, 0x00, 0x00, 0x00, 0x00]]
          inflight := { s.inflight with k := true } } ∧
      (releaseAll s).1 = .changed)

/-- R170: a keyboard operation transmits exactly when its status is CHANGED, and then the report did change; with any other
status the report, what is emitted and the guard are as before; only PRESS overflows. -/
def Obligations.OnlyAChangeTransmits : Prop :=
  ∀ (s : State) (r : Status × State), (∃ u, r = press u s ∨ r = release u s) ∨ r = releaseAll s →
    (r.1 = .changed →
      (r.2.kmod ≠ s.kmod ∨ r.2.kkey ≠ s.kkey) ∧ r.2.inflight.k = true ∧
      r.2.outs = s.outs ++ [.krpt (r.2.kmod :: 0x00 :: r.2.kkey.toList)]) ∧
    (r.1 ≠ .changed →
      r.2.kmod = s.kmod ∧ r.2.kkey = s.kkey ∧ r.2.inflight = s.inflight ∧ r.2.outs = s.outs) ∧
    (r.1 = .overflow → ∃ u, r = press u s)

/-- R174, R24: after any sequence of keyboard operations on an all-zero report in `D_FIRST`, each answered by its completion,
the slots and modifier bits show exactly the set of keys held, whatever the order; a key dropped by overflow is not held. -/
def Obligations.ReportShowsTheHeldKeys : Prop :=
  ∀ (s : State) (ops : List Instr), configOk s.cfg = true → s.kmod = 0x00 → (∀ i : Fin 6, s.kkey[i] = 0x00) →
    s.dstate = .first → s.inflight.k = false → (∀ i ∈ ops, isKeyOp i = true) →
    ∃ t, execAll (ops.flatMap fun i => [i, .txDoneK]) s = .next t ∧
      ShowsHeld t (ops.foldl (heldAfter s.cfg) [])

/-- S7 of the source's scenarios, from R171 and R172: pressing a key that is not recorded and releasing it again gives back
the report that stood before, for every key that finds room. -/
def Obligations.ReleaseUndoesPress : Prop :=
  ∀ (s : State) (u : Byte), configOk s.cfg = true → (press u s).1 = .changed →
    ∃ a b c, exec (.press u) { s with dstate := .first, inflight := ⟨false, s.inflight.p⟩ } = .next a ∧
      exec .txDoneK a = .next b ∧ exec (.release u) b = .next c ∧ c.kmod = s.kmod ∧ c.kkey = s.kkey ∧ c.raised = s.raised

/-- R175, R270: in a step on offered events, only the keyboard line or RESET changes the keyboard report, and only the host's
requests, an activation or RESET change the idle rates, the protocols and the output report. -/
def Obligations.OnlyTheOwnersPortChangesAReport : Prop :=
  ∀ s t : State, s.probe = none → step s = .next t →
    (t.kmod ≠ s.kmod ∨ t.kkey ≠ s.kkey →
      ∃ f rest, pick s [] s.pending = some (f, rest) ∧ (f.port = .krx ∨ f.port = .rst)) ∧
    (t.idle ≠ s.idle ∨ t.proto ≠ s.proto ∨ t.oled ≠ s.oled →
      ∃ f rest, pick s [] s.pending = some (f, rest) ∧ (f.port = .ctl ∨ f.port = .act ∨ f.port = .rst))

/-! ### The pointer report -/

/-- R191: MOVE overwrites the deltas and always transmits. -/
def Obligations.MoveSendsItsDeltas : Prop :=
  ∀ (s : State) (dx dy wheel pan : Byte), s.inflight.p = false →
    exec (.move dx dy wheel pan) s = .next
      { s with
        pdx := dx
        pdy := dy
        pwheel := if s.cfg.hasWheel then wheel else s.pwheel
        ppan := if s.cfg.hasPan then pan else s.ppan
        outs := s.outs ++ [.prpt ([s.pbtn.setWidth 8, dx, dy] ++ (if s.cfg.hasWheel then [wheel] else []) ++
          (if s.cfg.hasPan then [pan] else []) ++
          List.replicate (s.cfg.ptrLen - (3 + s.cfg.hasWheel.toNat + s.cfg.hasPan.toNat)) 0x00)]
        inflight := { s.inflight with p := true } }

/-- R192: SET_BUTTONS stores the low three bits of its operand and never transmits. -/
def Obligations.SetButtonsNeverTransmits : Prop :=
  ∀ (s : State) (m b c d : Byte), s.inflight.p = false →
    decode s.cfg s.dstate (.pop (1#2 ++ (m ++ (b ++ (c ++ d))))) = .ok (.setButtons (m.extractLsb' 0 3)) ∧
    exec (.setButtons (m.extractLsb' 0 3)) s = .next { s with pbtn := m.extractLsb' 0 3 }

/-- R193: pressing button 1 to 3 sets its bit, zeroes the deltas and always transmits; any other number does nothing. -/
def Obligations.ButtonPressTransmits : Prop :=
  ∀ (s : State) (n : Byte), s.inflight.p = false →
    ((n = 1 ∨ n = 2 ∨ n = 3) →
      exec (.buttonPress n) s = .next
        { s with
          pbtn := s.pbtn ||| (1#3 <<< (n.toNat - 1))
          pdx := 0x00
          pdy := 0x00
          pwheel := if s.cfg.hasWheel then 0x00 else s.pwheel
          ppan := if s.cfg.hasPan then 0x00 else s.ppan
          outs := s.outs ++ [.prpt ([(s.pbtn ||| (1#3 <<< (n.toNat - 1))).setWidth 8, 0x00, 0x00] ++
            (if s.cfg.hasWheel then [0x00] else []) ++ (if s.cfg.hasPan then [0x00] else []) ++
            List.replicate (s.cfg.ptrLen - (3 + s.cfg.hasWheel.toNat + s.cfg.hasPan.toNat)) 0x00)]
          inflight := { s.inflight with p := true } }) ∧
    (¬ (n = 1 ∨ n = 2 ∨ n = 3) → exec (.buttonPress n) s = .next s)

/-- R194: releasing button 1 to 3 clears its bit, zeroes the deltas and always transmits; any other number does nothing. -/
def Obligations.ButtonReleaseTransmits : Prop :=
  ∀ (s : State) (n : Byte), s.inflight.p = false →
    ((n = 1 ∨ n = 2 ∨ n = 3) →
      exec (.buttonRelease n) s = .next
        { s with
          pbtn := s.pbtn &&& ~~~(1#3 <<< (n.toNat - 1))
          pdx := 0x00
          pdy := 0x00
          pwheel := if s.cfg.hasWheel then 0x00 else s.pwheel
          ppan := if s.cfg.hasPan then 0x00 else s.ppan
          outs := s.outs ++ [.prpt ([(s.pbtn &&& ~~~(1#3 <<< (n.toNat - 1))).setWidth 8, 0x00, 0x00] ++
            (if s.cfg.hasWheel then [0x00] else []) ++ (if s.cfg.hasPan then [0x00] else []) ++
            List.replicate (s.cfg.ptrLen - (3 + s.cfg.hasWheel.toNat + s.cfg.hasPan.toNat)) 0x00)]
          inflight := { s.inflight with p := true } }) ∧
    (¬ (n = 1 ∨ n = 2 ∨ n = 3) → exec (.buttonRelease n) s = .next s)

/-- R190: a pointer operation is enabled only while no pointer report is in flight; it then starts with all deltas zero; it
never overflows. -/
def Obligations.PointerOperationsWaitForTheGuard : Prop :=
  ∀ (s : State) (i : Instr), isPointerOp i = true →
    (enabled i s = true ↔ s.inflight.p = false) ∧
    (BlockInv s → enabled i s = true → s.pdx = 0x00 ∧ s.pdy = 0x00 ∧ s.pwheel = 0x00 ∧ s.ppan = 0x00) ∧
    (∀ dx dy wheel pan, (move dx dy wheel pan s).1 ≠ .overflow) ∧ (∀ m, (setButtons m s).1 ≠ .overflow) ∧
    ∀ n, (buttonPress n s).1 ≠ .overflow ∧ (buttonRelease n s).1 ≠ .overflow

/-! ### Transmission -/

/-- R211, R97: the emission of the keyboard report as it stands, with the guard free. -/
def Obligations.KeyboardReportEmission : Prop :=
  ∀ s : State, s.inflight.k = false →
    exec (.kbdReport s.kmod s.kkey[0] s.kkey[1] s.kkey[2] s.kkey[3] s.kkey[4] s.kkey[5]) s = .next
      { s with
        outs := s.outs ++
          [.krpt [s.kmod, 0x00, s.kkey[0], s.kkey[1], s.kkey[2], s.kkey[3], s.kkey[4], s.kkey[5]]]
        inflight := { s.inflight with k := true } }

/-- R212, R98: the emission of the pointer report as it stands, with the guard free. -/
def Obligations.PointerReportEmission : Prop :=
  ∀ s : State, s.inflight.p = false →
    exec (.ptrReport s.pbtn s.pdx s.pdy s.pwheel s.ppan) s = .next
      { s with
        outs := s.outs ++ [.prpt ([s.pbtn.setWidth 8, s.pdx, s.pdy] ++ (if s.cfg.hasWheel then [s.pwheel] else []) ++
          (if s.cfg.hasPan then [s.ppan] else []) ++
          List.replicate (s.cfg.ptrLen - (3 + s.cfg.hasWheel.toNat + s.cfg.hasPan.toNat)) 0x00)]
        inflight := { s.inflight with p := true } }

/-- R213: a completion frees its own endpoint's guard and consumes the pointer deltas; with nothing in flight it is
ignored. -/
def Obligations.CompletionFreesItsEndpoint : Prop :=
  ∀ s : State,
    (s.inflight.k = true → exec .txDoneK s = .next { s with inflight := { s.inflight with k := false } }) ∧
    (s.inflight.k = false → exec .txDoneK s = .next s) ∧
    (s.inflight.p = true →
      exec .txDoneP s = .next
        { s with
          pdx := 0x00
          pdy := 0x00
          pwheel := if s.cfg.hasWheel then 0x00 else s.pwheel
          ppan := if s.cfg.hasPan then 0x00 else s.ppan
          inflight := { s.inflight with p := false } }) ∧
    (s.inflight.p = false → exec .txDoneP s = .next s)

/-- R214: however many events run, without the endpoint's completion (or RESET) at most one report leaves, and none while
one is in flight. -/
def Obligations.AtMostOneReportInFlight : Prop :=
  ∀ (is : List Instr) (s t : State), execAll is s = .next t → .reset ∉ is →
    (.txDoneK ∉ is → kbdReports t ≤ kbdReports s + (if s.inflight.k then 0 else 1)) ∧
    (.txDoneP ∉ is → ptrReports t ≤ ptrReports s + (if s.inflight.p then 0 else 1))

/-- R294: from emission to completion the report on the bus does not change. -/
def Obligations.ReportIsStableInFlight : Prop :=
  ∀ s t : State, step s = .next t →
    (s.inflight.k = true → t.inflight.k = true → krptData t = krptData s) ∧
    (s.inflight.p = true → t.inflight.p = true → prptData t = prptData s)

/-! ### The control context -/

/-- R231, R235: the two bytes are answered and nothing changes. -/
def Obligations.GetIdleAndProtocolAnswer : Prop :=
  ∀ (s : State) (e : Endpoint), (∀ x ∈ s.ktx, x.tag ≠ .ctl) →
    exec (.getIdle e) s = .next { s with outs := s.outs ++ [.ctl (.data [s.idle.get e])] } ∧
    exec (.getProtocol e) s = .next { s with outs := s.outs ++ [.ctl (.data [s.proto.get e])] }

/-- R232, R236: the high byte of the value field is stored as the idle rate and its low byte as the protocol, whatever they
are, for the addressed interface alone, and acknowledged. -/
def Obligations.SetIdleAndProtocolStore : Prop :=
  ∀ (s : State) (hi lo : Byte), (∀ x ∈ s.ktx, x.tag ≠ .ctl) →
    (configOk s.cfg = true → ∀ e data,
      decode s.cfg s.dstate (.ctl (s.cfg.reqSetIdle ++ (ifaceOf s.cfg e ++ (hi ++ lo))) data) = .ok (.setIdle e hi) ∧
      decode s.cfg s.dstate (.ctl (s.cfg.reqSetProtocol ++ (ifaceOf s.cfg e ++ (hi ++ lo))) data) =
        .ok (.setProtocol e lo)) ∧
    exec (.setIdle .k hi) s = .next { s with idle := ⟨hi, s.idle.p⟩, outs := s.outs ++ [.ctl .ack] } ∧
    exec (.setIdle .p hi) s = .next { s with idle := ⟨s.idle.k, hi⟩, outs := s.outs ++ [.ctl .ack] } ∧
    exec (.setProtocol .k lo) s = .next { s with proto := ⟨lo, s.proto.p⟩, outs := s.outs ++ [.ctl .ack] } ∧
    exec (.setProtocol .p lo) s = .next { s with proto := ⟨s.proto.k, lo⟩, outs := s.outs ++ [.ctl .ack] }

/-- R233: GET_REPORT answers the report of its endpoint as it stands and changes nothing; the pointer report read has zero
deltas; while a report of that endpoint is in flight the request waits. That the requests offered after it wait behind it is
the model's port order (log 12), and that a step with nothing to take answers the same state is log 13. -/
def Obligations.GetReportAnswersTheReport : Prop :=
  ∀ s : State, (∀ x ∈ s.ktx, x.tag ≠ .ctl) →
    (s.inflight.k = false →
      exec (.getReport .k) s =
        .next { s with outs := s.outs ++ [.ctl (.data (s.kmod :: 0x00 :: s.kkey.toList))] }) ∧
    (s.inflight.p = false → BlockInv s →
      exec (.getReport .p) s =
        .next { s with outs := s.outs ++
          [.ctl (.data (s.pbtn.setWidth 8 :: List.replicate (s.cfg.ptrLen - 1) 0x00))] }) ∧
    (s.inflight.p = false →
      exec (.getReport .p) s = .next { s with outs := s.outs ++
        [.ctl (.data ([s.pbtn.setWidth 8, s.pdx, s.pdy] ++ (if s.cfg.hasWheel then [s.pwheel] else []) ++
          (if s.cfg.hasPan then [s.ppan] else []) ++
          List.replicate (s.cfg.ptrLen - (3 + s.cfg.hasWheel.toNat + s.cfg.hasPan.toNat)) 0x00))] }) ∧
    ∀ e, s.inflight.get e = true →
      enabled (.getReport e) s = false ∧
      ∀ f rest, s.probe = none → s.pending = f :: rest → f.port = .ctl →
        decode s.cfg s.dstate f = .ok (.getReport e) → (∀ g ∈ rest, g.port = .ctl) → step s = .next s

/-- R234, R241, R123: SET_REPORT stores all eight bits, queues the two bytes of the LED command and acknowledges; it depends
on no guard and no decoder state. -/
def Obligations.SetReportForwardsTheLeds : Prop :=
  ∀ (s : State) (data : Byte), (∀ x ∈ s.ktx, x.tag ≠ .ctl) →
    exec (.setReport data) s = .next
      { s with
        oled := data
        ktx := s.ktx ++ [⟨s.cfg.cmdLeds, .ctl⟩,
          ⟨(data &&& 0x05#8) ||| ((data &&& 0x02#8) <<< 2) ||| ((data &&& 0x08#8) >>> 2), .ctl⟩]
        outs := s.outs ++ [.ctl .ack] }

/-- R237: a rejected request changes no register, sends no LED command, and answers REJECT, whatever is in flight. -/
def Obligations.RejectAnswersAndChangesNothing : Prop :=
  ∀ (s : State) (req iface : Byte) (value : BitVec 16), (∀ x ∈ s.ktx, x.tag ≠ .ctl) →
    exec (.reject req iface value) s = .next
      { s with
        outs := s.outs ++ [.ctl .reject]
        raised := s.raised ++ [.unsupportedRequest req iface value] }

/-- R95: the code, the length and the data lanes of each response. -/
def Obligations.ResponseWires : Prop :=
  (CtlRsp.ack.code = 0 ∧ CtlRsp.ack.rlen = 0 ∧ CtlRsp.ack.rdata = 0) ∧
  (CtlRsp.reject.code = 2 ∧ CtlRsp.reject.rlen = 0 ∧ CtlRsp.reject.rdata = 0) ∧ (∀ r : CtlRsp, r.code ≠ 3) ∧
  (∀ bs : List Byte, (CtlRsp.data bs).code = 1) ∧
  (∀ b : Byte, (CtlRsp.data [b]).code = 1 ∧ (CtlRsp.data [b]).rlen = 1 ∧ (CtlRsp.data [b]).rdata = b.setWidth 64) ∧
  ∀ s : State, configOk s.cfg = true →
    (CtlRsp.data (reportOf .k s)).rlen = 8 ∧
    (CtlRsp.data (reportOf .p s)).rlen = BitVec.ofNat 4 s.cfg.ptrLen ∧
    (∀ e i, ∀ h : i < (reportOf e s).length, laneByte (CtlRsp.data (reportOf e s)).rdata i = (reportOf e s)[i]) ∧
    ∀ e, (CtlRsp.data (reportOf e s)).rdata >>> (8 * (reportOf e s).length) = 0

/-- R240: an activation gives the two registers of its interface their defaults and changes nothing else. -/
def Obligations.ActivationRestoresDefaults : Prop :=
  ∀ s : State,
    exec (.activate .k) s = .next { s with idle := ⟨0x00, s.idle.p⟩, proto := ⟨0x01, s.proto.p⟩ } ∧
    exec (.activate .p) s = .next { s with idle := ⟨s.idle.k, 0x00⟩, proto := ⟨s.proto.k, 0x01⟩ }

/-- R248: `ctl_busy` is true exactly while a byte of an LED command is queued; then no request is enabled; ACTIVATE, the
completions, the line and the pointer are not affected by the queue. -/
def Obligations.QueuedLedBytesHoldTheControlContext : Prop :=
  ∀ s : State,
    (ctlBusy s = true ↔ ∃ x ∈ s.ktx, x.tag = .ctl) ∧
    (ctlBusy s = true → ∀ i, isRequest i = true → enabled i s = false) ∧
    ∀ i q, (isLineByte i = true ∨ isPointerOp i = true ∨ i = .txDoneK ∨ i = .txDoneP ∨ ∃ e, i = .activate e) →
      enabled i { s with ktx := q } = enabled i s

/-- R239: the idle rates and protocols have no effect but on GET_IDLE and GET_PROTOCOL: two states that differ in them alone
go the same way under every other event. -/
def Obligations.IdleAndProtocolAreStorageOnly : Prop :=
  ∀ (i : Instr) (s t : State) (idle proto : PerEp Byte), (∀ e, i ≠ .getIdle e) → (∀ e, i ≠ .getProtocol e) →
    exec i s = .next t →
    ∃ idle' proto', exec i { s with idle := idle, proto := proto } = .next { t with idle := idle', proto := proto' }

/-! ### The data formats (their reading as actions is the model's, log 15 and log 16) -/

/-- R96, R141: the reset command is sent once, at the end of the settle delay. -/
def Obligations.ResetCommandIsSentOnce : Prop :=
  ∀ s : State, s.dstate = .settle →
    ∃ t, exec .cmdReset s = .next t ∧
      t = { s with ktx := s.ktx ++ [⟨s.cfg.cmdReset, .dec⟩], dstate := .resetTx } ∧
      exec .cmdReset t = .next t ∧ exec .settle t = .next t

/-- R96, R123: the LED command carries the packed mask of the stored output report, bit by bit, and goes out as two
adjacent entries. -/
def Obligations.LedCommandCarriesThePackedMask : Prop :=
  ∀ (s : State) (m : BitVec 4), (∀ x ∈ s.ktx, x.tag ≠ .ctl) →
    m.getLsbD 0 = s.oled.getLsbD 0 → m.getLsbD 1 = s.oled.getLsbD 3 → m.getLsbD 2 = s.oled.getLsbD 2 →
    m.getLsbD 3 = s.oled.getLsbD 1 →
    exec (.cmdLeds m) s = .next { s with ktx := s.ktx ++ [⟨s.cfg.cmdLeds, .ctl⟩, ⟨0#4 ++ m, .ctl⟩] }

/-- R99, R234: the output report byte that completes a SET_REPORT is stored, forwarded and acknowledged. -/
def Obligations.OutputReportIsStoredAndForwarded : Prop :=
  ∀ (s : State) (data : Byte), (∀ x ∈ s.ktx, x.tag ≠ .ctl) →
    ∃ t, exec (.outputReport data) s = .next t ∧ exec (.setReport data) s = .next t ∧ t.oled = data ∧
      t.ktx.length = s.ktx.length + 2

/-- R123: the packer's result for the stored output report: num, compose, scroll, caps on bits 0 to 3 and zeros above. -/
def Obligations.LedMaskIsThePackedReport : Prop :=
  ∀ s : State,
    ∃ mask : Byte,
      exec (.sunLedMask (s.oled.getLsbD 0) (s.oled.getLsbD 3) (s.oled.getLsbD 2) (s.oled.getLsbD 1)) s =
        .next { s with outs := s.outs ++ [.ledMask mask] } ∧
      mask.getLsbD 0 = s.oled.getLsbD 0 ∧ mask.getLsbD 1 = s.oled.getLsbD 3 ∧
      mask.getLsbD 2 = s.oled.getLsbD 2 ∧ mask.getLsbD 3 = s.oled.getLsbD 1 ∧
      (∀ i, 4 ≤ i → mask.getLsbD i = false) ∧ hid2sunLeds (s.oled &&& 0x0F#8) = mask ∧
      hid2sunLeds mask = s.oled &&& 0x0F#8

/-- R125, R126: the button mapper answers the mask `MOUSEBTN` gives the raw byte and touches no register; where `MOUSEBTN` is
left at its default, bit 0 is left, bit 1 right, bit 2 middle, each active low (the default's reading is PRESUMED, log 6). -/
def Obligations.ButtonMapperAnswers : Prop :=
  ∀ (s : State) (raw : Byte),
    ∃ mask : BitVec 3, exec (.mouseRaw raw) s = .next { s with outs := s.outs ++ [.mb mask] } ∧
      ((∀ e ∈ s.cfg.mouseBtn, e.1 ≠ raw) →
        mask.getLsbD 0 = !raw.getLsbD 2 ∧ mask.getLsbD 1 = !raw.getLsbD 0 ∧ mask.getLsbD 2 = !raw.getLsbD 1) ∧
      ∀ m pre post, s.cfg.mouseBtn = pre ++ (raw, m) :: post → (∀ e ∈ pre, e.1 ≠ raw) → mask = m

/-! ### What each agent may write -/

/-- R40: each agent's events write the state of that agent's column and nothing else; what has been emitted and raised is
only added to; RESET leaves the configuration and the model's own fields (log 22). -/
def Obligations.AgentsWriteOnlyTheirOwnState : Prop :=
  ∀ (i : Instr) (s t : State), exec i s = .next t →
    (∃ l, t.outs = s.outs ++ l) ∧ (∃ l, t.raised = s.raised ++ l) ∧
    (agentOf i = .decoder →
      t = { s with
        kmod := t.kmod, kkey := t.kkey, inflight := ⟨t.inflight.k, s.inflight.p⟩, dstate := t.dstate,
        ktx := t.ktx, outs := t.outs, raised := t.raised }) ∧
    (agentOf i = .pointer →
      t = { s with
        pbtn := t.pbtn, pdx := t.pdx, pdy := t.pdy, pwheel := t.pwheel, ppan := t.ppan,
        inflight := ⟨s.inflight.k, t.inflight.p⟩, outs := t.outs }) ∧
    (agentOf i = .control →
      t = { s with
        oled := t.oled, idle := t.idle, proto := t.proto, ktx := t.ktx, outs := t.outs, raised := t.raised }) ∧
    (agentOf i = .completion →
      t = { s with
        pdx := t.pdx, pdy := t.pdy, pwheel := t.pwheel, ppan := t.ppan, inflight := t.inflight,
        dstate := t.dstate, ktx := t.ktx, outs := t.outs }) ∧
    (agentOf i = .mapper → t = { s with outs := t.outs }) ∧
    (agentOf i = .reset →
      t.outs = s.outs ∧ t.raised = s.raised ∧ t.cfg = s.cfg ∧ t.pending = s.pending ∧ t.probe = s.probe)

/-- R8: the keyboard operations are not events. A step of a machine in which no word has been placed from outside (log 15)
takes an event of an input port that is enabled, or changes nothing; no step places a word, and none is placed at reset. That
the model can run an operation by itself at all, and then only where the KRX step that invokes it could run, is log 15. -/
def Obligations.StepsTakeEventsOnly : Prop :=
  State.reset.probe = none ∧
  (∀ s t : State, step s = .next t → t.probe = none) ∧
  (∀ s t : State, s.probe = none → step s = .next t →
    t = s ∨ ∃ f rest i, pick s [] s.pending = some (f, rest) ∧ f ∈ s.pending ∧ f.isInput = true ∧
      decode s.cfg s.dstate f = .ok i ∧ i.isEvent = true ∧ isKeyOp i = false ∧ enabled i s = true ∧
      exec i { s with pending := rest } = .next t) ∧
  ∀ (s : State) (i : Instr), isKeyOp i = true → (enabled i s = true ↔ s.dstate = .first ∧ s.inflight.k = false)
end

