-- ==== Sys2Proof/Laws/Encoding.lean ====
section
/-! SUPPORT. The bit-field laws the encodings rest on: fields of a concatenation, and bytes on the lanes of a bus (R63); and
that the input ports carry the events of R8 and nothing else. -/

namespace Sys2Proof

/-- The high field of a concatenation. -/
theorem extract_append_high {n m : Nat} (a : BitVec n) (b : BitVec m) : (a ++ b).extractLsb' m n = a := by
  apply BitVec.eq_of_getLsbD_eq
  intro i hi
  simp only [BitVec.getLsbD_extractLsb', BitVec.getLsbD_append]
  have h : ¬ m + i < m := by omega
  simp [hi]

/-- A field that lies within the low part of a concatenation. -/
theorem extract_append_low {n m : Nat} (a : BitVec n) (b : BitVec m) (start len : Nat) (h : start + len ≤ m) :
    (a ++ b).extractLsb' start len = b.extractLsb' start len := by
  apply BitVec.eq_of_getLsbD_eq
  intro i hi
  simp only [BitVec.getLsbD_extractLsb', BitVec.getLsbD_append]
  have h' : start + i < m := by omega
  simp [hi, h']

/-- The field that is everything. -/
theorem extract_all {m : Nat} (b : BitVec m) : b.extractLsb' 0 m = b := by
  apply BitVec.eq_of_getLsbD_eq
  intro i hi
  simp [hi]

/-- The lane of the first byte. -/
theorem laneByte_packLanes_zero (b : Byte) (bs : List Byte) : laneByte (packLanes (b :: bs)) 0 = b := by
  apply BitVec.eq_of_getLsbD_eq
  intro i hi
  simp only [laneByte, packLanes, BitVec.getLsbD_extractLsb', BitVec.getLsbD_or, BitVec.getLsbD_shiftLeft,
    BitVec.getLsbD_setWidth]
  have h64 : i < 64 := by omega
  simp [hi, h64]

/-- The lanes above the first byte are the lanes of the others. -/
theorem laneByte_packLanes_succ (b : Byte) (bs : List Byte) (i : Nat) (h : i < 7) :
    laneByte (packLanes (b :: bs)) (i + 1) = laneByte (packLanes bs) i := by
  apply BitVec.eq_of_getLsbD_eq
  intro k hk
  simp only [laneByte, packLanes, BitVec.getLsbD_extractLsb', BitVec.getLsbD_or, BitVec.getLsbD_shiftLeft,
    BitVec.getLsbD_setWidth]
  have h1 : 8 * (i + 1) + k < 64 := by omega
  have h2 : ¬ 8 * (i + 1) + k < 8 := by omega
  have h3 : 8 * (i + 1) + k - 8 = 8 * i + k := by omega
  have h4 : b.getLsbD (8 * (i + 1) + k) = false := BitVec.getLsbD_of_ge b _ (by omega)
  simp [hk, h1, h2, h3, h4]

/-- Byte `i` of at most eight bytes is on lane `i`. -/
theorem laneByte_packLanes (bs : List Byte) (hb : bs.length ≤ 8) (i : Nat) (h : i < bs.length) :
    laneByte (packLanes bs) i = bs[i] := by
  induction bs generalizing i with
  | nil => simp at h
  | cons b bs ih =>
    simp only [List.length_cons] at hb h
    cases i with
    | zero => exact laneByte_packLanes_zero b bs
    | succ i =>
      rw [laneByte_packLanes_succ b bs i (by omega)]
      exact ih (by omega) i (by omega)

/-- Above its bytes a bus is zero. -/
theorem getLsbD_packLanes_of_ge (bs : List Byte) (k : Nat) (h : 8 * bs.length ≤ k) :
    (packLanes bs).getLsbD k = false := by
  induction bs generalizing k with
  | nil => simp [packLanes]
  | cons b bs ih =>
    simp only [List.length_cons] at h
    simp only [packLanes, BitVec.getLsbD_or, BitVec.getLsbD_shiftLeft, BitVec.getLsbD_setWidth]
    have h1 : (packLanes bs).getLsbD (k - 8) = false := ih _ (by omega)
    have h2 : b.getLsbD k = false := BitVec.getLsbD_of_ge b _ (by omega)
    simp [h1, h2]

/-- Above its bytes a bus is zero, as a shift. -/
theorem packLanes_shift (bs : List Byte) : packLanes bs >>> (8 * bs.length) = 0 := by
  apply BitVec.eq_of_getLsbD_eq
  intro i _
  rw [BitVec.getLsbD_ushiftRight, getLsbD_packLanes_of_ge bs _ (by omega)]
  simp

/-! ### Input ports and events -/

theorem classify_isEvent (c : Config) (b : Byte) : (classify c b).isEvent = true := by
  unfold classify
  repeat' split
  all_goals rfl

theorem decodePop_isEvent (w : BitVec 34) : (decodePop w).isEvent = true := by
  simp only [decodePop]
  repeat' split
  all_goals rfl

theorem decodeCtl_isEvent (c : Config) (w : BitVec 32) (data : Byte) : (decodeCtl c w data).isEvent = true := by
  simp only [decodeCtl, decodeRequest]
  repeat' split
  all_goals rfl

/-- A word decodes to an event of R8 (or a byte at MB) exactly when it stands on an input port. -/
theorem decode_isEvent {c : Config} {d : DState} {f : Frame} {i : Instr} (h : decode c d f = .ok i) :
    i.isEvent = f.isInput := by
  cases f with
  | krx b =>
    simp only [decode, decodeKrx, Except.ok.injEq] at h
    split at h <;> subst h
    · rfl
    · exact classify_isEvent c b
  | pop w =>
    simp only [decode, Except.ok.injEq] at h
    subst h; exact decodePop_isEvent w
  | ctl w data =>
    simp only [decode, Except.ok.injEq] at h
    subst h; exact decodeCtl_isEvent c w data
  | _ =>
    simp only [decode, decodeKop, decodeStrobe, decodeAct, decodeKrpt, decodePrpt, decodeMask] at h
    repeat' split at h
    all_goals first
      | rfl
      | (simp only [Except.ok.injEq] at h; subst h; rfl)
      | cases h

end Sys2Proof
end

