-- ==== Sys2Proof/Laws/State.lean ====
section
/-! SUPPORT. One lemma per field per shared operation, so that no later proof unfolds a record update; and the laws of
the two-element arrays. -/

namespace Sys2Proof

@[simp] theorem PerEp.get_set_self {α : Type} (a : PerEp α) (e : Endpoint) (v : α) : (a.set e v).get e = v := by
  cases e <;> rfl

theorem PerEp.get_set_of_ne {α : Type} (a : PerEp α) (e e' : Endpoint) (v : α) (h : e' ≠ e) :
    (a.set e v).get e' = a.get e' := by
  cases e <;> cases e' <;> first | rfl | exact absurd rfl h

@[simp] theorem PerEp.set_k_k {α : Type} (a : PerEp α) (v : α) : (a.set .k v).k = v := rfl
@[simp] theorem PerEp.set_k_p {α : Type} (a : PerEp α) (v : α) : (a.set .k v).p = a.p := rfl

@[simp] theorem PerEp.get_k {α : Type} (a : PerEp α) : a.get .k = a.k := rfl

@[simp] theorem PerEp.set_p_k {α : Type} (a : PerEp α) (v : α) : (a.set .p v).k = a.k := rfl
@[simp] theorem PerEp.set_p_p {α : Type} (a : PerEp α) (v : α) : (a.set .p v).p = v := rfl

@[simp] theorem PerEp.get_p {α : Type} (a : PerEp α) : a.get .p = a.p := rfl

namespace Machine

/-! ### `emit` adds one output. -/

@[simp] theorem emit_kmod (o : Output) (s : State) : (emit o s).kmod = s.kmod := rfl
@[simp] theorem emit_kkey (o : Output) (s : State) : (emit o s).kkey = s.kkey := rfl
@[simp] theorem emit_pbtn (o : Output) (s : State) : (emit o s).pbtn = s.pbtn := rfl
@[simp] theorem emit_pdx (o : Output) (s : State) : (emit o s).pdx = s.pdx := rfl
@[simp] theorem emit_pdy (o : Output) (s : State) : (emit o s).pdy = s.pdy := rfl
@[simp] theorem emit_pwheel (o : Output) (s : State) : (emit o s).pwheel = s.pwheel := rfl
@[simp] theorem emit_ppan (o : Output) (s : State) : (emit o s).ppan = s.ppan := rfl
@[simp] theorem emit_oled (o : Output) (s : State) : (emit o s).oled = s.oled := rfl
@[simp] theorem emit_idle (o : Output) (s : State) : (emit o s).idle = s.idle := rfl
@[simp] theorem emit_proto (o : Output) (s : State) : (emit o s).proto = s.proto := rfl
@[simp] theorem emit_inflight (o : Output) (s : State) : (emit o s).inflight = s.inflight := rfl
@[simp] theorem emit_dstate (o : Output) (s : State) : (emit o s).dstate = s.dstate := rfl
@[simp] theorem emit_ktx (o : Output) (s : State) : (emit o s).ktx = s.ktx := rfl
@[simp] theorem emit_cfg (o : Output) (s : State) : (emit o s).cfg = s.cfg := rfl
@[simp] theorem emit_pending (o : Output) (s : State) : (emit o s).pending = s.pending := rfl
@[simp] theorem emit_probe (o : Output) (s : State) : (emit o s).probe = s.probe := rfl
@[simp] theorem emit_outs (o : Output) (s : State) : (emit o s).outs = s.outs ++ [o] := rfl
@[simp] theorem emit_raised (o : Output) (s : State) : (emit o s).raised = s.raised := rfl

/-! ### `goto` writes `dstate`. -/

@[simp] theorem goto_kmod (d : DState) (s : State) : (goto d s).kmod = s.kmod := rfl
@[simp] theorem goto_kkey (d : DState) (s : State) : (goto d s).kkey = s.kkey := rfl
@[simp] theorem goto_pbtn (d : DState) (s : State) : (goto d s).pbtn = s.pbtn := rfl
@[simp] theorem goto_pdx (d : DState) (s : State) : (goto d s).pdx = s.pdx := rfl
@[simp] theorem goto_pdy (d : DState) (s : State) : (goto d s).pdy = s.pdy := rfl
@[simp] theorem goto_pwheel (d : DState) (s : State) : (goto d s).pwheel = s.pwheel := rfl
@[simp] theorem goto_ppan (d : DState) (s : State) : (goto d s).ppan = s.ppan := rfl
@[simp] theorem goto_oled (d : DState) (s : State) : (goto d s).oled = s.oled := rfl
@[simp] theorem goto_idle (d : DState) (s : State) : (goto d s).idle = s.idle := rfl
@[simp] theorem goto_proto (d : DState) (s : State) : (goto d s).proto = s.proto := rfl
@[simp] theorem goto_inflight (d : DState) (s : State) : (goto d s).inflight = s.inflight := rfl
@[simp] theorem goto_dstate (d : DState) (s : State) : (goto d s).dstate = d := rfl
@[simp] theorem goto_ktx (d : DState) (s : State) : (goto d s).ktx = s.ktx := rfl
@[simp] theorem goto_cfg (d : DState) (s : State) : (goto d s).cfg = s.cfg := rfl
@[simp] theorem goto_pending (d : DState) (s : State) : (goto d s).pending = s.pending := rfl
@[simp] theorem goto_probe (d : DState) (s : State) : (goto d s).probe = s.probe := rfl
@[simp] theorem goto_outs (d : DState) (s : State) : (goto d s).outs = s.outs := rfl
@[simp] theorem goto_raised (d : DState) (s : State) : (goto d s).raised = s.raised := rfl

/-! ### Raising a condition records it; a transport-fatal one halts the decoder. -/

@[simp] theorem raiseCond_kmod (x : Condition) (s : State) : (raiseCond x s).kmod = s.kmod := rfl
@[simp] theorem raiseCond_kkey (x : Condition) (s : State) : (raiseCond x s).kkey = s.kkey := rfl
@[simp] theorem raiseCond_pbtn (x : Condition) (s : State) : (raiseCond x s).pbtn = s.pbtn := rfl
@[simp] theorem raiseCond_pdx (x : Condition) (s : State) : (raiseCond x s).pdx = s.pdx := rfl
@[simp] theorem raiseCond_pdy (x : Condition) (s : State) : (raiseCond x s).pdy = s.pdy := rfl
@[simp] theorem raiseCond_pwheel (x : Condition) (s : State) : (raiseCond x s).pwheel = s.pwheel := rfl
@[simp] theorem raiseCond_ppan (x : Condition) (s : State) : (raiseCond x s).ppan = s.ppan := rfl
@[simp] theorem raiseCond_oled (x : Condition) (s : State) : (raiseCond x s).oled = s.oled := rfl
@[simp] theorem raiseCond_idle (x : Condition) (s : State) : (raiseCond x s).idle = s.idle := rfl
@[simp] theorem raiseCond_proto (x : Condition) (s : State) : (raiseCond x s).proto = s.proto := rfl
@[simp] theorem raiseCond_inflight (x : Condition) (s : State) : (raiseCond x s).inflight = s.inflight := rfl
@[simp] theorem raiseCond_dstate (x : Condition) (s : State) :
    (raiseCond x s).dstate = if x.errorClass = 1 then .halt else s.dstate := rfl
@[simp] theorem raiseCond_ktx (x : Condition) (s : State) : (raiseCond x s).ktx = s.ktx := rfl
@[simp] theorem raiseCond_cfg (x : Condition) (s : State) : (raiseCond x s).cfg = s.cfg := rfl
@[simp] theorem raiseCond_pending (x : Condition) (s : State) : (raiseCond x s).pending = s.pending := rfl
@[simp] theorem raiseCond_probe (x : Condition) (s : State) : (raiseCond x s).probe = s.probe := rfl
@[simp] theorem raiseCond_outs (x : Condition) (s : State) : (raiseCond x s).outs = s.outs := rfl
@[simp] theorem raiseCond_raised (x : Condition) (s : State) : (raiseCond x s).raised = s.raised ++ [x] := rfl

/-! ### `transmit(K)` emits the report and takes the guard. -/

@[simp] theorem transmitK_kmod (s : State) : (transmitK s).kmod = s.kmod := rfl
@[simp] theorem transmitK_kkey (s : State) : (transmitK s).kkey = s.kkey := rfl
@[simp] theorem transmitK_pbtn (s : State) : (transmitK s).pbtn = s.pbtn := rfl
@[simp] theorem transmitK_pdx (s : State) : (transmitK s).pdx = s.pdx := rfl
@[simp] theorem transmitK_pdy (s : State) : (transmitK s).pdy = s.pdy := rfl
@[simp] theorem transmitK_pwheel (s : State) : (transmitK s).pwheel = s.pwheel := rfl
@[simp] theorem transmitK_ppan (s : State) : (transmitK s).ppan = s.ppan := rfl
@[simp] theorem transmitK_oled (s : State) : (transmitK s).oled = s.oled := rfl
@[simp] theorem transmitK_idle (s : State) : (transmitK s).idle = s.idle := rfl
@[simp] theorem transmitK_proto (s : State) : (transmitK s).proto = s.proto := rfl
@[simp] theorem transmitK_inflight (s : State) : (transmitK s).inflight = s.inflight.set .k true := rfl
@[simp] theorem transmitK_dstate (s : State) : (transmitK s).dstate = s.dstate := rfl
@[simp] theorem transmitK_ktx (s : State) : (transmitK s).ktx = s.ktx := rfl
@[simp] theorem transmitK_cfg (s : State) : (transmitK s).cfg = s.cfg := rfl
@[simp] theorem transmitK_pending (s : State) : (transmitK s).pending = s.pending := rfl
@[simp] theorem transmitK_probe (s : State) : (transmitK s).probe = s.probe := rfl
@[simp] theorem transmitK_outs (s : State) : (transmitK s).outs = s.outs ++ [.krpt (keyboardReport s)] := rfl
@[simp] theorem transmitK_raised (s : State) : (transmitK s).raised = s.raised := rfl

/-! ### `transmit(P)` emits the report and takes the guard. -/

@[simp] theorem transmitP_kmod (s : State) : (transmitP s).kmod = s.kmod := rfl
@[simp] theorem transmitP_kkey (s : State) : (transmitP s).kkey = s.kkey := rfl
@[simp] theorem transmitP_pbtn (s : State) : (transmitP s).pbtn = s.pbtn := rfl
@[simp] theorem transmitP_pdx (s : State) : (transmitP s).pdx = s.pdx := rfl
@[simp] theorem transmitP_pdy (s : State) : (transmitP s).pdy = s.pdy := rfl
@[simp] theorem transmitP_pwheel (s : State) : (transmitP s).pwheel = s.pwheel := rfl
@[simp] theorem transmitP_ppan (s : State) : (transmitP s).ppan = s.ppan := rfl
@[simp] theorem transmitP_oled (s : State) : (transmitP s).oled = s.oled := rfl
@[simp] theorem transmitP_idle (s : State) : (transmitP s).idle = s.idle := rfl
@[simp] theorem transmitP_proto (s : State) : (transmitP s).proto = s.proto := rfl
@[simp] theorem transmitP_inflight (s : State) : (transmitP s).inflight = s.inflight.set .p true := rfl
@[simp] theorem transmitP_dstate (s : State) : (transmitP s).dstate = s.dstate := rfl
@[simp] theorem transmitP_ktx (s : State) : (transmitP s).ktx = s.ktx := rfl
@[simp] theorem transmitP_cfg (s : State) : (transmitP s).cfg = s.cfg := rfl
@[simp] theorem transmitP_pending (s : State) : (transmitP s).pending = s.pending := rfl
@[simp] theorem transmitP_probe (s : State) : (transmitP s).probe = s.probe := rfl
@[simp] theorem transmitP_outs (s : State) : (transmitP s).outs = s.outs ++ [.prpt (pointerReport s)] := rfl
@[simp] theorem transmitP_raised (s : State) : (transmitP s).raised = s.raised := rfl

/-! ### Queueing appends. -/

@[simp] theorem pushKtx_kmod (es : List KtxEntry) (s : State) : (pushKtx es s).kmod = s.kmod := rfl
@[simp] theorem pushKtx_kkey (es : List KtxEntry) (s : State) : (pushKtx es s).kkey = s.kkey := rfl
@[simp] theorem pushKtx_pbtn (es : List KtxEntry) (s : State) : (pushKtx es s).pbtn = s.pbtn := rfl
@[simp] theorem pushKtx_pdx (es : List KtxEntry) (s : State) : (pushKtx es s).pdx = s.pdx := rfl
@[simp] theorem pushKtx_pdy (es : List KtxEntry) (s : State) : (pushKtx es s).pdy = s.pdy := rfl
@[simp] theorem pushKtx_pwheel (es : List KtxEntry) (s : State) : (pushKtx es s).pwheel = s.pwheel := rfl
@[simp] theorem pushKtx_ppan (es : List KtxEntry) (s : State) : (pushKtx es s).ppan = s.ppan := rfl
@[simp] theorem pushKtx_oled (es : List KtxEntry) (s : State) : (pushKtx es s).oled = s.oled := rfl
@[simp] theorem pushKtx_idle (es : List KtxEntry) (s : State) : (pushKtx es s).idle = s.idle := rfl
@[simp] theorem pushKtx_proto (es : List KtxEntry) (s : State) : (pushKtx es s).proto = s.proto := rfl
@[simp] theorem pushKtx_inflight (es : List KtxEntry) (s : State) : (pushKtx es s).inflight = s.inflight := rfl
@[simp] theorem pushKtx_dstate (es : List KtxEntry) (s : State) : (pushKtx es s).dstate = s.dstate := rfl
@[simp] theorem pushKtx_ktx (es : List KtxEntry) (s : State) : (pushKtx es s).ktx = s.ktx ++ es := rfl
@[simp] theorem pushKtx_cfg (es : List KtxEntry) (s : State) : (pushKtx es s).cfg = s.cfg := rfl
@[simp] theorem pushKtx_pending (es : List KtxEntry) (s : State) : (pushKtx es s).pending = s.pending := rfl
@[simp] theorem pushKtx_probe (es : List KtxEntry) (s : State) : (pushKtx es s).probe = s.probe := rfl
@[simp] theorem pushKtx_outs (es : List KtxEntry) (s : State) : (pushKtx es s).outs = s.outs := rfl
@[simp] theorem pushKtx_raised (es : List KtxEntry) (s : State) : (pushKtx es s).raised = s.raised := rfl

/-! ### The deltas of the build become zero. -/

@[simp] theorem zeroDeltas_kmod (s : State) : (zeroDeltas s).kmod = s.kmod := rfl
@[simp] theorem zeroDeltas_kkey (s : State) : (zeroDeltas s).kkey = s.kkey := rfl
@[simp] theorem zeroDeltas_pbtn (s : State) : (zeroDeltas s).pbtn = s.pbtn := rfl
@[simp] theorem zeroDeltas_pdx (s : State) : (zeroDeltas s).pdx = 0x00 := rfl
@[simp] theorem zeroDeltas_pdy (s : State) : (zeroDeltas s).pdy = 0x00 := rfl
@[simp] theorem zeroDeltas_pwheel (s : State) : (zeroDeltas s).pwheel = if s.cfg.hasWheel then 0x00 else s.pwheel := rfl
@[simp] theorem zeroDeltas_ppan (s : State) : (zeroDeltas s).ppan = if s.cfg.hasPan then 0x00 else s.ppan := rfl
@[simp] theorem zeroDeltas_oled (s : State) : (zeroDeltas s).oled = s.oled := rfl
@[simp] theorem zeroDeltas_idle (s : State) : (zeroDeltas s).idle = s.idle := rfl
@[simp] theorem zeroDeltas_proto (s : State) : (zeroDeltas s).proto = s.proto := rfl
@[simp] theorem zeroDeltas_inflight (s : State) : (zeroDeltas s).inflight = s.inflight := rfl
@[simp] theorem zeroDeltas_dstate (s : State) : (zeroDeltas s).dstate = s.dstate := rfl
@[simp] theorem zeroDeltas_ktx (s : State) : (zeroDeltas s).ktx = s.ktx := rfl
@[simp] theorem zeroDeltas_cfg (s : State) : (zeroDeltas s).cfg = s.cfg := rfl
@[simp] theorem zeroDeltas_pending (s : State) : (zeroDeltas s).pending = s.pending := rfl
@[simp] theorem zeroDeltas_probe (s : State) : (zeroDeltas s).probe = s.probe := rfl
@[simp] theorem zeroDeltas_outs (s : State) : (zeroDeltas s).outs = s.outs := rfl
@[simp] theorem zeroDeltas_raised (s : State) : (zeroDeltas s).raised = s.raised := rfl

end Machine

end Sys2Proof
end

