-- ==== Sys2Proof/Laws/Ops.lean ====
section
/-! SUPPORT. What each shared operation can do, said once: the operations on the keyboard report, taking a byte, running an
event under its condition, and the step. Later proofs cite these and do not unfold the operations. -/

namespace Sys2Proof.Machine

variable {s t : State}

/-! ### The key slots -/

theorem slotOf_some {keys : Vector Byte 6} {u : Byte} {j : Fin 6} (h : slotOf keys u = some j) : keys[j] = u := by
  simpa using List.find?_some h

theorem slotOf_none {keys : Vector Byte 6} {u : Byte} (h : slotOf keys u = none) (i : Fin 6) : keys[i] ≠ u := by
  have := List.find?_eq_none.mp h i (List.mem_finRange i)
  simpa using this

theorem slotOf_isSome {keys : Vector Byte 6} {u : Byte} {i : Fin 6} (h : keys[i] = u) :
    ∃ j, slotOf keys u = some j := by
  cases hs : slotOf keys u with
  | some j => exact ⟨j, rfl⟩
  | none => exact absurd h (slotOf_none hs i)

/-- The slot found is the least one. -/
theorem slotOf_least {keys : Vector Byte 6} {u : Byte} {j : Fin 6} (hj : keys[j] = u)
    (hl : ∀ i : Fin 6, i < j → keys[i] ≠ u) : slotOf keys u = some j := by
  obtain ⟨k, hk⟩ := slotOf_isSome hj
  have hu := slotOf_some hk
  have hle : ¬ k < j := fun hlt => hl k hlt hu
  obtain ⟨_, as, bs, hcut, hbefore⟩ := List.find?_eq_some_iff_append.mp hk
  rcases Nat.lt_or_ge j.val k.val with hlt | hge
  · have hmem : j ∈ as := by
      have hj' : j ∈ as ++ k :: bs := hcut ▸ List.mem_finRange j
      rcases List.mem_append.mp hj' with h | h
      · exact h
      · have hs : (as ++ k :: bs).Pairwise (· < ·) := hcut ▸ List.pairwise_lt_finRange 6
        have hkb := (List.pairwise_cons.mp (List.pairwise_append.mp hs).2.1).1
        rcases List.mem_cons.mp h with rfl | hb
        · exact absurd hlt (Nat.lt_irrefl _)
        · exact absurd (hkb j hb) (by simp only [Fin.lt_def]; omega)
    exact absurd hj (by simpa using hbefore j hmem)
  · have : k = j := by
      apply Fin.ext
      have : ¬ k.val < j.val := hle
      omega
    rw [hk, this]

/-! ### The keyboard operations -/

/-- Everything PRESS can do (R171). -/
theorem press_cases (u : Byte) (s : State) :
    (press u s = (.noop, s) ∧
      (u = 0x00 ∨ (isModifier s.cfg u = true ∧ s.kmod.getLsbD (modBit s.cfg u).toNat = true) ∨
        (isModifier s.cfg u = false ∧ ∃ i : Fin 6, s.kkey[i] = u))) ∨
    (u ≠ 0x00 ∧ isModifier s.cfg u = true ∧ s.kmod.getLsbD (modBit s.cfg u).toNat = false ∧
      press u s = (.changed, transmitK { s with kmod := setModifier s.kmod (modBit s.cfg u) })) ∨
    (u ≠ 0x00 ∧ isModifier s.cfg u = false ∧ (∀ i : Fin 6, s.kkey[i] ≠ u) ∧
      ∃ j, slotOf s.kkey 0x00 = some j ∧ press u s = (.changed, transmitK { s with kkey := s.kkey.set j u })) ∨
    (u ≠ 0x00 ∧ isModifier s.cfg u = false ∧ (∀ i : Fin 6, s.kkey[i] ≠ u) ∧ (∀ i : Fin 6, s.kkey[i] ≠ 0x00) ∧
      press u s = (.overflow, raiseCond (.keyTableOverflow u) s)) := by
  by_cases h0 : u = 0x00
  · exact .inl ⟨by simp_all [press], .inl h0⟩
  cases hm : isModifier s.cfg u with
  | true =>
    cases hb : s.kmod.getLsbD (modBit s.cfg u).toNat with
    | true => exact .inl ⟨by simp_all [press], .inr (.inl ⟨rfl, rfl⟩)⟩
    | false => exact .inr (.inl ⟨h0, rfl, rfl, by simp_all [press]⟩)
  | false =>
    cases hs : slotOf s.kkey u with
    | some j => exact .inl ⟨by simp_all [press], .inr (.inr ⟨rfl, j, slotOf_some hs⟩)⟩
    | none =>
      cases hz : slotOf s.kkey 0x00 with
      | some j => exact .inr (.inr (.inl ⟨h0, rfl, slotOf_none hs, j, rfl, by simp_all [press]⟩))
      | none => exact .inr (.inr (.inr ⟨h0, rfl, slotOf_none hs, slotOf_none hz, by simp_all [press]⟩))

/-- Everything RELEASE can do (R172). -/
theorem release_cases (u : Byte) (s : State) :
    (release u s = (.noop, s) ∧
      (u = 0x00 ∨ (isModifier s.cfg u = true ∧ s.kmod.getLsbD (modBit s.cfg u).toNat = false) ∨
        (isModifier s.cfg u = false ∧ ∀ i : Fin 6, s.kkey[i] ≠ u))) ∨
    (u ≠ 0x00 ∧ isModifier s.cfg u = true ∧ s.kmod.getLsbD (modBit s.cfg u).toNat = true ∧
      release u s = (.changed, transmitK { s with kmod := clearModifier s.kmod (modBit s.cfg u) })) ∨
    (u ≠ 0x00 ∧ isModifier s.cfg u = false ∧
      ∃ j, slotOf s.kkey u = some j ∧ release u s = (.changed, transmitK { s with kkey := s.kkey.set j 0x00 })) := by
  by_cases h0 : u = 0x00
  · exact .inl ⟨by simp_all [release], .inl h0⟩
  cases hm : isModifier s.cfg u with
  | true =>
    cases hb : s.kmod.getLsbD (modBit s.cfg u).toNat with
    | true => exact .inr (.inl ⟨h0, rfl, rfl, by simp_all [release]⟩)
    | false => exact .inl ⟨by simp_all [release], .inr (.inl ⟨rfl, rfl⟩)⟩
  | false =>
    cases hs : slotOf s.kkey u with
    | some j => exact .inr (.inr ⟨h0, rfl, j, rfl, by simp_all [release]⟩)
    | none => exact .inl ⟨by simp_all [release], .inr (.inr ⟨rfl, slotOf_none hs⟩)⟩

/-- Everything RELEASE_ALL can do (R173). -/
theorem releaseAll_cases (s : State) :
    (allReleased s = true ∧ releaseAll s = (.noop, s)) ∨
    (allReleased s = false ∧
      releaseAll s = (.changed, transmitK { s with kmod := 0x00, kkey := Vector.replicate 6 0x00 })) := by
  cases h : allReleased s
  · exact .inr ⟨rfl, by simp [releaseAll, h]⟩
  · exact .inl ⟨rfl, by simp [releaseAll, h]⟩

theorem allReleased_iff : allReleased s = true ↔ s.kmod = 0x00 ∧ s.kkey = Vector.replicate 6 0x00 := by
  simp [allReleased]

/-! ### The usage code of a key transition -/

theorem deadEntry_iff {c : Config} {sc : BitVec 7} :
    deadEntry c sc = true ↔
      ∃ m ∈ [c.mResetAck, c.mLayout, c.mSelftestFail, c.mIdle], m.extractLsb' 0 7 = sc := by
  simp [deadEntry]

theorem usageOf_live {c : Config} {sc : BitVec 7} (h : deadEntry c sc = false) :
    usageOf c sc = Memory.read c.scanrom sc.toNat := by
  simp [usageOf, h, sun2hid]

/-- A dead entry is not read: the code does not depend on the ROM. -/
theorem usageOf_dead {c : Config} {sc : BitVec 7} (h : deadEntry c sc = true) :
    usageOf c sc = Config.deadUsage sc.toNat := by
  simp [usageOf, h]

/-! ### Taking a byte of the keyboard line -/

/-- A byte is unexpected and halts the decoder, or has the effect of its form. -/
theorem takeByte_cases (b : Byte) (form : State → State) (s : State) :
    (unexpected s.cfg s.dstate b = true ∧ takeByte b form s = raiseCond (.transportUnexpected b) s) ∨
    (unexpected s.cfg s.dstate b = false ∧ takeByte b form s = form s) := by
  cases h : unexpected s.cfg s.dstate b <;> simp [takeByte, h]

/-- Taking the head byte of a queue that has one (R247). -/
theorem acceptHead_cons {x : KtxEntry} {rest : List KtxEntry} (h : s.ktx = x :: rest) :
    acceptHead s =
      emit (.ktx x.byte) { s with ktx := rest, dstate := if x.tag = .dec then .first else s.dstate } := by
  simp [acceptHead, h]

/-! ### Every meaning -/

/-- No meaning stops the machine (R268). -/
theorem exec_next (i : Instr) (s : State) : ∃ t, exec i s = .next t := by
  cases i <;> exact ⟨_, rfl⟩

/-- What each event does where it is enabled, in one place: `exec_eq` says that the meanings are this. -/
def effect (i : Instr) (s : State) : State :=
  match i with
  | .resetAck => takeByte s.cfg.mResetAck (goto .argReset) s
  | .layoutResp => takeByte s.cfg.mLayout (goto .argLayout) s
  | .selftestFail => takeByte s.cfg.mSelftestFail (goto .argFail) s
  | .idle => takeByte s.cfg.mIdle (fun s => goto .first (releaseAll s).2) s
  | .keyDown sc => takeByte (0#1 ++ sc) (keyTransition (0#1 ++ sc) press) s
  | .keyUp sc => takeByte (1#1 ++ sc) (keyTransition (1#1 ++ sc) release) s
  | .krxOperand v =>
    takeByte v (fun s => goto .first (if s.dstate = .argFail then raiseCond (.selfTestFailure v) s else s)) s
  | .press u => (press u s).2
  | .release u => (release u s).2
  | .releaseAll => (releaseAll s).2
  | .move dx dy wheel pan => (move dx dy wheel pan s).2
  | .setButtons mask => (setButtons mask s).2
  | .buttonPress n => (buttonPress n s).2
  | .buttonRelease n => (buttonRelease n s).2
  | .getReport e => respond (reportOf e s) s
  | .getIdle e => respond [s.idle.get e] s
  | .getProtocol e => respond [s.proto.get e] s
  | .setReport data => acceptOutputReport data s
  | .setIdle e rate => emit (.ctl .ack) { s with idle := s.idle.set e rate }
  | .setProtocol e proto => emit (.ctl .ack) { s with proto := s.proto.set e proto }
  | .reject req iface value => emit (.ctl .reject) (raiseCond (.unsupportedRequest req iface value) s)
  | .reset =>
    { State.reset with cfg := s.cfg, pending := s.pending, probe := s.probe, outs := s.outs, raised := s.raised }
  | .settle => sendReset s
  | .ktxAccept => acceptHead s
  | .krxFail => raiseCond .transportClosed s
  | .txDoneK => if s.inflight.k then { s with inflight := s.inflight.set .k false } else s
  | .txDoneP => if s.inflight.p then { zeroDeltas s with inflight := s.inflight.set .p false } else s
  | .activate e => { s with idle := s.idle.set e 0x00, proto := s.proto.set e 0x01 }
  | .cmdReset => sendReset s
  | .cmdLeds m => pushKtx [⟨s.cfg.cmdLeds, .ctl⟩, ⟨m.setWidth 8, .ctl⟩] s
  | .kbdReport _ _ _ _ _ _ _ => transmitK s
  | .ptrReport _ _ _ _ _ => transmitP s
  | .outputReport data => acceptOutputReport data s
  | .sunLedMask _ _ _ _ => emit (.ledMask (hid2sunLeds s.oled)) s
  | .mouseRaw raw => emit (.mb (sun2hidMousebuttons s.cfg raw)) s

/-- Every meaning is its effect, run under the event's own enabling condition. -/
theorem exec_eq (i : Instr) (s : State) : exec i s = .next (if enabled i s then effect i s else s) := by
  cases i <;> rfl

theorem exec_of_enabled {i : Instr} (h : enabled i s = true) : exec i s = .next (effect i s) := by
  rw [exec_eq, if_pos h]

/-- An event that is not enabled changes nothing (R7, log 11). -/
theorem exec_disabled {i : Instr} (h : enabled i s = false) : exec i s = .next s := by
  rw [exec_eq, if_neg (by simp [h])]

/-- An event that answers `next t` had its effect, or was not enabled and changed nothing. -/
theorem exec_cases {i : Instr} (h : exec i s = .next t) :
    (enabled i s = true ∧ t = effect i s) ∨ (enabled i s = false ∧ t = s) := by
  rw [exec_eq, Host.Outcome.next.injEq] at h
  cases hi : enabled i s <;> simp [hi] at h
  · exact .inr ⟨rfl, h.symm⟩
  · exact .inl ⟨rfl, h.symm⟩

/-- What no meaning writes: the configuration, what is offered and what is placed. -/
structure SameInput (t s : State) : Prop where
  cfg : t.cfg = s.cfg
  pending : t.pending = s.pending
  probe : t.probe = s.probe

theorem press_keeps (u : Byte) (s : State) : SameInput (press u s).2 s := by
  rcases press_cases u s with ⟨h, _⟩ | ⟨_, _, _, h⟩ | ⟨_, _, _, j, _, h⟩ | ⟨_, _, _, _, h⟩ <;> rw [h] <;>
    constructor <;> rfl

theorem release_keeps (u : Byte) (s : State) : SameInput (release u s).2 s := by
  rcases release_cases u s with ⟨h, _⟩ | ⟨_, _, _, h⟩ | ⟨_, _, j, _, h⟩ <;> rw [h] <;> constructor <;> rfl

theorem releaseAll_keeps (s : State) : SameInput (releaseAll s).2 s := by
  rcases releaseAll_cases s with ⟨_, h⟩ | ⟨_, h⟩ <;> rw [h] <;> constructor <;> rfl

theorem acceptHead_keeps (s : State) : SameInput (acceptHead s) s := by
  cases h : s.ktx with
  | nil => simpa [acceptHead, h] using ⟨rfl, rfl, rfl⟩
  | cons x rest => rw [acceptHead_cons h]; exact ⟨rfl, rfl, rfl⟩

/-- Whatever an event does, it keeps the configuration and takes nothing from what is offered or placed. -/
theorem effect_keeps (i : Instr) (s : State) : SameInput (effect i s) s := by
  cases i with
  | press u => exact press_keeps u s
  | release u => exact release_keeps u s
  | releaseAll => exact releaseAll_keeps s
  | ktxAccept => exact acceptHead_keeps s
  | idle =>
    simp only [effect, takeByte]; split
    · exact ⟨rfl, rfl, rfl⟩
    · exact ⟨(releaseAll_keeps s).1, (releaseAll_keeps s).2, (releaseAll_keeps s).3⟩
  | keyDown sc =>
    simp only [effect, takeByte, keyTransition]; split <;> [skip; split]
    · exact ⟨rfl, rfl, rfl⟩
    · exact ⟨rfl, rfl, rfl⟩
    · exact ⟨(press_keeps _ s).1, (press_keeps _ s).2, (press_keeps _ s).3⟩
  | keyUp sc =>
    simp only [effect, takeByte, keyTransition]; split <;> [skip; split]
    · exact ⟨rfl, rfl, rfl⟩
    · exact ⟨rfl, rfl, rfl⟩
    · exact ⟨(release_keeps _ s).1, (release_keeps _ s).2, (release_keeps _ s).3⟩
  | krxOperand v => simp only [effect, takeByte]; split <;> [skip; split] <;> exact ⟨rfl, rfl, rfl⟩
  | resetAck | layoutResp | selftestFail => simp only [effect, takeByte]; split <;> exact ⟨rfl, rfl, rfl⟩
  | buttonPress n | buttonRelease n => simp only [effect, buttonPress, buttonRelease]; split <;> exact ⟨rfl, rfl, rfl⟩
  | txDoneK | txDoneP => simp only [effect]; split <;> exact ⟨rfl, rfl, rfl⟩
  | _ => exact ⟨rfl, rfl, rfl⟩

/-- A meaning keeps the configuration, and with it the ROM, and takes nothing from what is offered or placed. -/
theorem exec_keeps {i : Instr} (h : exec i s = .next t) : SameInput t s := by
  rcases exec_cases h with ⟨_, rfl⟩ | ⟨_, rfl⟩
  · exact effect_keeps i s
  · exact ⟨rfl, rfl, rfl⟩

/-! ### The step -/

/-- The step of a state in which nothing is placed and an offered frame can be taken and decodes. -/
theorem step_of_pick {f : Frame} {rest : List Frame} {i : Instr} (hn : s.probe = none)
    (hp : pick s [] s.pending = some (f, rest)) (hd : decode s.cfg s.dstate f = .ok i) :
    step s = exec i { s with pending := rest } := by
  simp [step, takeNext, hn, hp, hd]

/-- The step of a state in which nothing is placed and no offered frame can be taken (log 13). -/
theorem step_of_pick_none (hn : s.probe = none) (hp : pick s [] s.pending = none) : step s = .next s := by
  simp [step, takeNext, hn, hp]

/-- The step of a state in which a word is placed (log 15). -/
theorem step_of_probe {f : Frame} {i : Instr} (hn : s.probe = some f) (hd : decode s.cfg s.dstate f = .ok i) :
    step s = exec i { s with probe := none } := by
  simp [step, takeNext, hn, hd]

/-- Everything a step that answers `next t` can have done: nothing, the meaning of an offered event, or the meaning of the word
placed. -/
theorem step_cases (h : step s = .next t) :
    (s.probe = none ∧ pick s [] s.pending = none ∧ t = s) ∨
    (s.probe = none ∧ ∃ f rest i, pick s [] s.pending = some (f, rest) ∧ decode s.cfg s.dstate f = .ok i ∧
      exec i { s with pending := rest } = .next t) ∨
    ∃ f i, s.probe = some f ∧ decode s.cfg s.dstate f = .ok i ∧ exec i { s with probe := none } = .next t := by
  cases hn : s.probe with
  | some f =>
    cases hd : decode s.cfg s.dstate f with
    | error e => simp [step, takeNext, hn, hd] at h
    | ok i => exact .inr (.inr ⟨f, i, rfl, hd, by rw [← step_of_probe hn hd]; exact h⟩)
  | none =>
    cases hp : pick s [] s.pending with
    | none =>
      rw [step_of_pick_none hn hp, Host.Outcome.next.injEq] at h
      exact .inl ⟨rfl, rfl, h.symm⟩
    | some r =>
      obtain ⟨f, rest⟩ := r
      cases hd : decode s.cfg s.dstate f with
      | error e => simp [step, takeNext, hn, hp, hd] at h
      | ok i =>
        rw [step_of_pick hn hp hd] at h
        exact .inr (.inl ⟨rfl, f, rest, i, rfl, hd, by simpa only [hn] using h⟩)

/-- The frame a step takes can be taken, and the frames before it wait. -/
theorem pick_some {held : List Port} {fs : List Frame} {f : Frame} {rest : List Frame}
    (h : pick s held fs = some (f, rest)) :
    frameReady s f = true ∧ held.contains f.port = false ∧
      ∃ pre post, fs = pre ++ f :: post ∧ rest = pre ++ post := by
  induction fs generalizing held rest with
  | nil => simp [pick] at h
  | cons g gs ih =>
    simp only [pick] at h
    split at h
    · simp only [Option.map_eq_some_iff, Prod.mk.injEq, Prod.exists] at h
      obtain ⟨a, b, hab, rfl, rfl⟩ := h
      obtain ⟨hr, hc, pre, post, rfl, rfl⟩ := ih hab
      refine ⟨hr, ?_, g :: pre, post, rfl, rfl⟩
      simp only [List.contains_cons, Bool.or_eq_false_iff] at hc
      exact hc.2
    · next hg =>
      simp only [Option.some.injEq, Prod.mk.injEq] at h
      obtain ⟨rfl, rfl⟩ := h
      simp only [Bool.or_eq_true, Bool.not_eq_true', not_or, Bool.not_eq_true, Bool.not_eq_false] at hg
      exact ⟨hg.2, hg.1, [], gs, rfl, rfl⟩

/-- A frame whose word decodes can be taken exactly when it stands on an input port and its event is enabled. -/
theorem frameReady_ok {f : Frame} {i : Instr} (hd : decode s.cfg s.dstate f = .ok i) :
    frameReady s f = (f.isInput && enabled i s) := by
  simp [frameReady, hd]

/-- A frame that can be taken stands on an input port (R8). -/
theorem frameReady_isInput {f : Frame} (h : frameReady s f = true) : f.isInput = true := by
  simp only [frameReady, Bool.and_eq_true] at h
  exact h.1

/-- A frame taken from the ports is an event (R8). -/
theorem pick_isEvent {f : Frame} {rest : List Frame} {i : Instr} (hp : pick s [] s.pending = some (f, rest))
    (hd : decode s.cfg s.dstate f = .ok i) : i.isEvent = true := by
  rw [decode_isEvent hd]
  exact frameReady_isInput (pick_some hp).1

/-- No step places a word, and the step that runs one removes it. -/
theorem step_probe_none (h : step s = .next t) : t.probe = none := by
  rcases step_cases h with ⟨hn, _, rfl⟩ | ⟨hn, _, _, _, _, _, he⟩ | ⟨_, _, _, _, he⟩
  · exact hn
  · rw [(exec_keeps he).probe]; exact hn
  · rw [(exec_keeps he).probe]

end Sys2Proof.Machine
end

