-- ==== Sys2Proof/Laws/Keyboard.lean ====
section
/-! SUPPORT. The arithmetic of modifier bits and key slots, and what the keyboard operations leave alone, said once. -/

namespace Sys2Proof.Machine

/-! ### Modifier codes and bits (R122) -/

theorem isModifier_iff {c : Config} {u : Byte} :
    isModifier c u = true ↔ c.modBase.toNat ≤ u.toNat ∧ u.toNat ≤ c.modBase.toNat + 7 := by
  simp [isModifier]

/-- A modifier's bit is its distance from `MOD_BASE`. -/
theorem modBit_toNat {c : Config} {u : Byte} (h : isModifier c u = true) :
    (modBit c u).toNat = u.toNat - c.modBase.toNat := by
  have := isModifier_iff.mp h
  simp only [modBit, BitVec.extractLsb'_toNat, BitVec.toNat_sub, Nat.shiftRight_zero]
  omega

/-- Two modifiers with one bit are one code. -/
theorem modBit_inj {c : Config} {u v : Byte} (hu : isModifier c u = true) (hv : isModifier c v = true)
    (h : (modBit c u).toNat = (modBit c v).toNat) : u = v := by
  rw [modBit_toNat hu, modBit_toNat hv] at h
  have := isModifier_iff.mp hu
  have := isModifier_iff.mp hv
  exact BitVec.eq_of_toNat_eq (by omega)

theorem setModifier_getLsbD (k : Byte) (i j : BitVec 3) :
    (setModifier k i).getLsbD j.toNat = (k.getLsbD j.toNat || decide (j.toNat = i.toNat)) := by
  have hi := i.isLt
  have hj := j.isLt
  simp only [setModifier, BitVec.getLsbD_or, BitVec.getLsbD_shiftLeft]
  congr 1
  by_cases h : j.toNat = i.toNat
  · simp [h]; omega
  · simp [h]; intro _ hh; omega

theorem clearModifier_getLsbD (k : Byte) (i j : BitVec 3) :
    (clearModifier k i).getLsbD j.toNat = (k.getLsbD j.toNat && !decide (j.toNat = i.toNat)) := by
  have hi := i.isLt
  have hj := j.isLt
  simp only [clearModifier, BitVec.getLsbD_and, BitVec.getLsbD_not, BitVec.getLsbD_shiftLeft]
  congr 1
  by_cases h : j.toNat = i.toNat
  · simp [h]
  · simp [h, hj]; omega

/-! ### Key slots -/

theorem kkey_getElem_set {k : Vector Byte 6} {i j : Fin 6} {u : Byte} :
    (k.set j u)[i] = if j = i then u else k[i] := by
  by_cases h : j = i
  · subst h; simp
  · have : j.val ≠ i.val := fun hc => h (Fin.ext hc)
    simp [h, this]

theorem kkey_eq_replicate_iff {k : Vector Byte 6} :
    k = Vector.replicate 6 0x00 ↔ ∀ i : Fin 6, k[i] = 0x00 := by
  constructor
  · rintro rfl i; simp
  · intro h; exact Vector.ext fun i hi => by simpa using h ⟨i, hi⟩

theorem kkey_toList (k : Vector Byte 6) : k.toList = [k[0], k[1], k[2], k[3], k[4], k[5]] := by
  obtain ⟨⟨l⟩, hl⟩ := k
  match l, hl with
  | [_, _, _, _, _, _], _ => rfl

/-! ### What the operations leave alone -/

/-- The registers outside the keyboard report agree, and so do the configuration and what is offered. -/
structure SameOutsideKeyboard (t s : State) : Prop where
  pbtn : t.pbtn = s.pbtn
  pdx : t.pdx = s.pdx
  pdy : t.pdy = s.pdy
  pwheel : t.pwheel = s.pwheel
  ppan : t.ppan = s.ppan
  oled : t.oled = s.oled
  idle : t.idle = s.idle
  proto : t.proto = s.proto
  inflightP : t.inflight.p = s.inflight.p
  dstate : t.dstate = s.dstate
  ktx : t.ktx = s.ktx
  cfg : t.cfg = s.cfg
  pending : t.pending = s.pending
  probe : t.probe = s.probe

theorem press_same (u : Byte) (s : State) : SameOutsideKeyboard (press u s).2 s := by
  rcases press_cases u s with ⟨h, _⟩ | ⟨_, _, _, h⟩ | ⟨_, _, _, j, _, h⟩ | ⟨_, _, _, _, h⟩ <;> rw [h] <;>
    constructor <;> simp [Condition.errorClass]

theorem release_same (u : Byte) (s : State) : SameOutsideKeyboard (release u s).2 s := by
  rcases release_cases u s with ⟨h, _⟩ | ⟨_, _, _, h⟩ | ⟨_, _, j, _, h⟩ <;> rw [h] <;> constructor <;> simp

theorem releaseAll_same (s : State) : SameOutsideKeyboard (releaseAll s).2 s := by
  rcases releaseAll_cases s with ⟨_, h⟩ | ⟨_, h⟩ <;> rw [h] <;> constructor <;> simp

/-! ### States as propositions -/

theorem ctlBusy_eq_false_iff {s : State} : ctlBusy s = false ↔ ∀ x ∈ s.ktx, x.tag ≠ .ctl := by
  simp [ctlBusy]

theorem ctlBusy_eq_true_iff {s : State} : ctlBusy s = true ↔ ∃ x ∈ s.ktx, x.tag = .ctl := by
  simp [ctlBusy]

theorem reads_iff {d : DState} :
    d.reads = true ↔ d = .first ∨ d = .argReset ∨ d = .argLayout ∨ d = .argFail := by
  cases d <;> decide

theorem isArg_iff {d : DState} : d.isArg = true ↔ d = .argReset ∨ d = .argLayout ∨ d = .argFail := by
  cases d <;> decide

end Sys2Proof.Machine
end

