-- ==== Sys2Proof/Laws/Memory.lean ====
section
/-! SUPPORT. The block's one memory is a ROM (R61, R75): the form of its list is kept because nothing writes it. -/

namespace Sys2Proof.Machine

/-- A listed entry of a ROM whose indices rise is what the ROM reads there. -/
theorem Memory.read_of_mem {m : Memory} {a : Nat} {v : Byte} (hw : Memory.rising m = true) (h : (a, v) ∈ m) :
    Memory.read m a = v := by
  induction m with
  | nil => cases h
  | cons c m ih =>
    simp only [Memory.rising, Bool.and_eq_true, List.all_eq_true, decide_eq_true_eq] at hw
    rcases List.mem_cons.mp h with rfl | h
    · simp [Memory.read]
    · have hne : (c.1 == a) = false := by
        have := hw.1 _ h
        simp only [beq_eq_false_iff_ne]
        omega
      have := ih hw.2 h
      simpa [Memory.read, hne] using this

/-- An index no entry lists reads as `Memory.unlisted`. -/
theorem Memory.read_of_unlisted {m : Memory} {a : Nat} (h : ∀ c ∈ m, c.1 ≠ a) :
    Memory.read m a = Memory.unlisted a := by
  have : m.find? (fun c => c.1 == a) = none := by
    simpa [List.find?_eq_none] using h
  simp [Memory.read, this]

/-- The reset state's ROM is in canonical form. -/
theorem reset_rom_wf : Memory.wf State.reset.cfg.scanrom = true := rfl

/-- Every meaning keeps the ROM's canonical form. -/
theorem exec_keeps_rom_wf {i : Instr} {s t : State} (h : exec i s = .next t)
    (hw : Memory.wf s.cfg.scanrom = true) : Memory.wf t.cfg.scanrom = true := by
  rw [(exec_keeps h).cfg]
  exact hw

end Sys2Proof.Machine
end

