-- ==== Sys2Proof/Laws/PerInstr.lean ====
section
/-! SUPPORT. One law per constructor of `Instr`, about the instruction as syntax: where its frame stands. -/

namespace Sys2Proof.Laws.FormatLaw

/-- The frame of an instruction is on an input port of R81 exactly when the instruction is an event of R8 (or a byte at MB),
and the decoder state matters to it only if its frame is a byte of the keyboard line (the table's `context`). -/
def Statement (i : Instr) : Prop :=
  ∀ c : Config, (encode c i).isInput = i.isEvent ∧
    ∀ d : DState, i.inContext d = false → (encode c i).port = .krx

theorem resetAck : Statement .resetAck := fun _ => ⟨rfl, fun _ _ => rfl⟩

theorem layoutResp : Statement .layoutResp := fun _ => ⟨rfl, fun _ _ => rfl⟩

theorem selftestFail : Statement .selftestFail := fun _ => ⟨rfl, fun _ _ => rfl⟩

theorem idle : Statement .idle := fun _ => ⟨rfl, fun _ _ => rfl⟩

theorem keyDown (sc : BitVec 7) : Statement (.keyDown sc) := fun _ => ⟨rfl, fun _ _ => rfl⟩

theorem keyUp (sc : BitVec 7) : Statement (.keyUp sc) := fun _ => ⟨rfl, fun _ _ => rfl⟩

theorem krxOperand (v : Byte) : Statement (.krxOperand v) := fun _ => ⟨rfl, fun _ _ => rfl⟩

theorem press (u : Byte) : Statement (.press u) := fun _ => ⟨rfl, fun _ h => nomatch h⟩

theorem release (u : Byte) : Statement (.release u) := fun _ => ⟨rfl, fun _ h => nomatch h⟩

theorem releaseAll : Statement .releaseAll := fun _ => ⟨rfl, fun _ h => nomatch h⟩

theorem move (dx : Byte) (dy : Byte) (wheel : Byte) (pan : Byte) :
    Statement (.move dx dy wheel pan) := fun _ => ⟨rfl, fun _ h => nomatch h⟩

theorem setButtons (mask : BitVec 3) : Statement (.setButtons mask) := fun _ => ⟨rfl, fun _ h => nomatch h⟩

theorem buttonPress (n : Byte) : Statement (.buttonPress n) := fun _ => ⟨rfl, fun _ h => nomatch h⟩

theorem buttonRelease (n : Byte) : Statement (.buttonRelease n) := fun _ => ⟨rfl, fun _ h => nomatch h⟩

theorem getReport (e : Endpoint) : Statement (.getReport e) := fun _ => ⟨rfl, fun _ h => nomatch h⟩

theorem getIdle (e : Endpoint) : Statement (.getIdle e) := fun _ => ⟨rfl, fun _ h => nomatch h⟩

theorem getProtocol (e : Endpoint) : Statement (.getProtocol e) := fun _ => ⟨rfl, fun _ h => nomatch h⟩

theorem setReport (data : Byte) : Statement (.setReport data) := fun _ => ⟨rfl, fun _ h => nomatch h⟩

theorem setIdle (e : Endpoint) (rate : Byte) :
    Statement (.setIdle e rate) := fun _ => ⟨rfl, fun _ h => nomatch h⟩

theorem setProtocol (e : Endpoint) (proto : Byte) :
    Statement (.setProtocol e proto) := fun _ => ⟨rfl, fun _ h => nomatch h⟩

theorem reject (req : Byte) (iface : Byte) (value : BitVec 16) :
    Statement (.reject req iface value) := fun _ => ⟨rfl, fun _ h => nomatch h⟩

theorem reset : Statement .reset := fun _ => ⟨rfl, fun _ h => nomatch h⟩

theorem settle : Statement .settle := fun _ => ⟨rfl, fun _ h => nomatch h⟩

theorem ktxAccept : Statement .ktxAccept := fun _ => ⟨rfl, fun _ h => nomatch h⟩

theorem krxFail : Statement .krxFail := fun _ => ⟨rfl, fun _ h => nomatch h⟩

theorem txDoneK : Statement .txDoneK := fun _ => ⟨rfl, fun _ h => nomatch h⟩

theorem txDoneP : Statement .txDoneP := fun _ => ⟨rfl, fun _ h => nomatch h⟩

theorem activate (e : Endpoint) :
    Statement (.activate e) := fun _ => by cases e <;> exact ⟨rfl, fun _ h => nomatch h⟩

theorem cmdReset : Statement .cmdReset := fun _ => ⟨rfl, fun _ h => nomatch h⟩

theorem cmdLeds (m : BitVec 4) : Statement (.cmdLeds m) := fun _ => ⟨rfl, fun _ h => nomatch h⟩

theorem kbdReport (kmod : Byte) (k0 : Byte) (k1 : Byte) (k2 : Byte) (k3 : Byte) (k4 : Byte) (k5 : Byte) :
    Statement (.kbdReport kmod k0 k1 k2 k3 k4 k5) := fun _ => ⟨rfl, fun _ h => nomatch h⟩

theorem ptrReport (btn : BitVec 3) (dx : Byte) (dy : Byte) (wheel : Byte) (pan : Byte) :
    Statement (.ptrReport btn dx dy wheel pan) := fun _ => ⟨rfl, fun _ h => nomatch h⟩

theorem outputReport (data : Byte) : Statement (.outputReport data) := fun _ => ⟨rfl, fun _ h => nomatch h⟩

theorem sunLedMask (num : Bool) (compose : Bool) (scroll : Bool) (caps : Bool) :
    Statement (.sunLedMask num compose scroll caps) := fun _ => ⟨rfl, fun _ h => nomatch h⟩

theorem mouseRaw (raw : Byte) : Statement (.mouseRaw raw) := fun _ => ⟨rfl, fun _ h => nomatch h⟩

end Sys2Proof.Laws.FormatLaw
end

