-- ==== Sys2Proof/Tests/Slice0.lean ====
section
/-! SUPPORT. Tests. The words are written out from the formats of 30_encoding.md; the expected results are those of the
worked examples of the rules and of 95_test_vectors.md. At the end, for every statement with hypotheses, a witness: a
concrete state and operands that meet them, clause by clause. -/

namespace Sys2Proof.Tests

open Sys2Proof Sys2Proof.Machine

/-! ### Helpers -/

/-- The entries of the fixture REFROM (95_test_vectors.md 1.1) that the tests use; 0x4D is the ROM's own. -/
def testRom : Memory :=
  [(0x00, 0x00), (0x4E, 0x16), (0x4F, 0x07), (0x53, 0x0D), (0x63, 0xE1), (0x7A, 0xE7), (0x7D, 0x57)]

def testCfg : Config := { Config.default with scanrom := testRom }

/-- The state after `boot`, without the output. -/
def booted : State := { State.reset with cfg := testCfg, dstate := .first }

def withKeys (kmod : Byte) (keys : Vector Byte 6) : State := { booted with kmod := kmod, kkey := keys }

def sixKeys : State := withKeys 0x00 #v[0x04, 0x16, 0x07, 0x09, 0x0A, 0x0B]

def inFlight : State := { booted with inflight := ⟨true, true⟩ }

/-- The LED command of `leds 03` is queued. -/
def ledQueued : State := { booted with oled := 0x03, ktx := [⟨0x0E, .ctl⟩, ⟨0x09, .ctl⟩] }

def at_ (d : DState) : State := { booted with dstate := d }

/-- V-DEC-8, with the two bytes of the tests listed. -/
def pickyCfg : Config :=
  { testCfg with unexpected := [(.argReset, 0x7F), (.first, 0x12), (.argFail, 0x00), (.argLayout, 0xFF)] }

def picky (d : DState) : State := { booted with cfg := pickyCfg, dstate := d }

def wheelCfg : Config := { testCfg with hasWheel := true, ptrLen := 4 }

def fullCfg : Config := { testCfg with hasWheel := true, hasPan := true, ptrLen := 6 }

def offered (s : State) (fs : List Frame) : State := { s with pending := fs }

/-- The state an outcome answers. -/
def after : Host.Outcome State Fault Refusal → Option State
  | .next t => some t
  | .fault _ => none
  | .refused _ => none

/-- The reports, bytes and responses an outcome adds to a state that has emitted nothing. -/
def emitted (o : Host.Outcome State Fault Refusal) : Option (List Output) :=
  (after o).map (·.outs)

/-! ### Well-formedness: an ill-formed term for each check -/

theorem test_wf_keyDown_marker : (Instr.keyDown 0x7F).wf Config.default = false := by decide
theorem test_wf_keyDown_last : (Instr.keyDown 0x7D).wf Config.default = true := by decide
theorem test_wf_keyUp_marker : (Instr.keyUp 0x7E).wf Config.default = false := by decide
theorem test_wf_keyUp_last : (Instr.keyUp 0x7D).wf Config.default = true := by decide
theorem test_wf_reject_served : (Instr.reject 0x01 0x00 0x0100).wf Config.default = false := by decide
theorem test_wf_reject_feature : (Instr.reject 0x01 0x00 0x0300).wf Config.default = true := by decide
theorem test_wf_ptrReport_wheel : (Instr.ptrReport 1 0x05 0xFD 0x01 0x00).wf Config.default = false := by decide
theorem test_wf_ptrReport_pan : (Instr.ptrReport 1 0x05 0xFD 0x00 0x01).wf wheelCfg = false := by decide
theorem test_context_first_byte : Instr.idle.inContext .argReset = false := by decide
theorem test_context_operand : (Instr.krxOperand 0x7F).inContext .first = false := by decide

/-! ### Decoding: words written out from the encodings -/

theorem test_decode_krx :
    decode testCfg .first (.krx 0b11111111) = .ok .resetAck ∧
    decode testCfg .first (.krx 0b11111110) = .ok .layoutResp ∧
    decode testCfg .first (.krx 0b01111110) = .ok .selftestFail ∧
    decode testCfg .first (.krx 0b01111111) = .ok .idle ∧
    decode testCfg .first (.krx 0b01001101) = .ok (.keyDown 0x4D) ∧
    decode testCfg .first (.krx 0b11001101) = .ok (.keyUp 0x4D) ∧
    decode testCfg .argReset (.krx 0b01111111) = .ok (.krxOperand 0x7F) := by
  refine ⟨?_, ?_, ?_, ?_, ?_, ?_, ?_⟩ <;> rfl

/-- The ends of the classes (95_test_vectors.md 3.1). -/
theorem test_decode_krx_ends :
    decode testCfg .first (.krx 0x00) = .ok (.keyDown 0x00) ∧ decode testCfg .first (.krx 0x7D) = .ok (.keyDown 0x7D) ∧
    decode testCfg .first (.krx 0x80) = .ok (.keyUp 0x00) ∧ decode testCfg .first (.krx 0xFD) = .ok (.keyUp 0x7D) := by
  refine ⟨?_, ?_, ?_, ?_⟩ <;> rfl

theorem test_decode_kop :
    decode testCfg .first (.kop 0b0000000100) = .ok (.press 0x04) ∧
    decode testCfg .first (.kop 0b0111100001) = .ok (.release 0xE1) ∧
    decode testCfg .first (.kop 0b1011111111) = .ok .releaseAll ∧
    decode testCfg .first (.kop 0b1100000000) = .error .kopCode11 := by
  refine ⟨?_, ?_, ?_, ?_⟩ <;> rfl

/-- The words of PROG-7, and V-PTR-2's mask FA with ignored bits set. -/
theorem test_decode_pop :
    decode testCfg .first (.pop 0x005FD0000) = .ok (.move 0x05 0xFD 0x00 0x00) ∧
    decode testCfg .first (.pop 0x1FAFFFFFF) = .ok (.setButtons 2) ∧
    decode testCfg .first (.pop 0x202000000) = .ok (.buttonPress 0x02) ∧
    decode testCfg .first (.pop 0x3FF000000) = .ok (.buttonRelease 0xFF) := by
  refine ⟨?_, ?_, ?_, ?_⟩ <;> rfl

theorem test_decode_ctl :
    decode testCfg .first (.ctl 0x010001FF 0x00) = .ok (.getReport .k) ∧
    decode testCfg .first (.ctl 0x0201FFFF 0x00) = .ok (.getIdle .p) ∧
    decode testCfg .first (.ctl 0x03000000 0x00) = .ok (.getProtocol .k) ∧
    decode testCfg .first (.ctl 0x09000200 0x03) = .ok (.setReport 0x03) ∧
    decode testCfg .first (.ctl 0x0A01FF05 0x00) = .ok (.setIdle .p 0xFF) ∧
    decode testCfg .first (.ctl 0x0B00AB02 0x00) = .ok (.setProtocol .k 0x02) ∧
    decode testCfg .first (.ctl 0x09010200 0x01) = .ok (.reject 0x09 0x01 0x0200) := by
  refine ⟨?_, ?_, ?_, ?_, ?_, ?_, ?_⟩ <;> rfl

theorem test_decode_strobes :
    decode testCfg .halt (.rst 1) = .ok .reset ∧ decode testCfg .settle (.settleDone 1) = .ok .settle ∧
    decode testCfg .first (.ktxHandshake 3) = .ok .ktxAccept ∧ decode testCfg .first (.krxFail 1) = .ok .krxFail ∧
    decode testCfg .first (.krptDone 1) = .ok .txDoneK ∧ decode testCfg .first (.prptDone 1) = .ok .txDoneP ∧
    decode testCfg .first (.act 0b10) = .ok (.activate .k) ∧ decode testCfg .first (.act 0b11) = .ok (.activate .p) ∧
    decode testCfg .first (.rst 0) = .error .strobeLow := by
  refine ⟨?_, ?_, ?_, ?_, ?_, ?_, ?_, ?_, ?_⟩ <;> rfl

theorem test_decode_formats :
    decode testCfg .first (.ktx8 0b00000001) = .ok .cmdReset ∧
    decode testCfg .first (.ktx16 0b0000111000001001) = .ok (.cmdLeds 9) ∧
    decode testCfg .first (.krpt 0x0B0A090716040082) = .ok (.kbdReport 0x82 0x04 0x16 0x07 0x09 0x0A 0x0B) ∧
    decode testCfg .first (.prpt 0xFD0501) = .ok (.ptrReport 1 0x05 0xFD 0x00 0x00) ∧
    decode wheelCfg .first (.prpt 0xFEFF0102) = .ok (.ptrReport 2 0x01 0xFF 0xFE 0x00) ∧
    decode testCfg .first (.ledIn 0b00010011) = .ok (.outputReport 0x13) ∧
    decode testCfg .first (.ledOut 0b00001001) = .ok (.sunLedMask true false false true) ∧
    decode testCfg .first (.mb 0b10000011) = .ok (.mouseRaw 0x83) := by
  refine ⟨?_, ?_, ?_, ?_, ?_, ?_, ?_, ?_⟩ <;> rfl

/-- Output words the block never produces (R96, R97, R98, R123). -/
theorem test_decode_refused :
    decode testCfg .first (.ktx8 0x02) = .error .notResetCommand ∧
    decode testCfg .first (.ktx16 0x0E10) = .error .notLedCommand ∧
    decode testCfg .first (.krpt 0x0100) = .error .reservedByte ∧
    decode testCfg .first (.prpt 0x01000000) = .error .pointerPadding ∧
    decode testCfg .first (.prpt 0x08) = .error .pointerPadding ∧
    decode testCfg .first (.ledOut 0x10) = .error .maskHighBits := by
  refine ⟨?_, ?_, ?_, ?_, ?_, ?_⟩ <;> rfl

/-! ### The tables -/

theorem test_rom : sun2hid testCfg 0x4D = 0x04 ∧ sun2hid testCfg 0x63 = 0xE1 ∧ sun2hid testCfg 0x00 = 0x00 := by decide

/-- R124's table. -/
theorem test_led_table :
    (List.range 16).map (fun n => hid2sunLeds (BitVec.ofNat 8 n)) =
      [0x0, 0x1, 0x8, 0x9, 0x4, 0x5, 0xC, 0xD, 0x2, 0x3, 0xA, 0xB, 0x6, 0x7, 0xE, 0xF] := by decide

theorem test_led_high_bits : hid2sunLeds 0xFF = 0x0F ∧ hid2sunLeds 0xE0 = 0x00 ∧ hid2sunLeds 0x12 = 0x08 := by decide

theorem test_modifiers :
    isModifier testCfg 0xE0 = true ∧ isModifier testCfg 0xE7 = true ∧ isModifier testCfg 0xDF = false ∧
    isModifier testCfg 0xE8 = false ∧ modBit testCfg 0xE1 = 1 := by decide

theorem test_configs :
    configOk Config.default = true ∧ configOk testCfg = true ∧ configOk fullCfg = true ∧ configOk pickyCfg = true := by
  refine ⟨?_, ?_, ?_, ?_⟩ <;> rfl

theorem test_config_refused :
    configOk { Config.default with mLayout := 0xFF } = false ∧ configOk { Config.default with ifPtr := 0 } = false ∧
    configOk { Config.default with hasWheel := true } = false ∧ configOk { Config.default with modBase := 0xF9 } = false ∧
    configOk { Config.default with scanrom := [(0x4D, 0x05)] } = false := by
  refine ⟨?_, ?_, ?_, ?_, ?_⟩ <;> rfl

/-! ### The keyboard line -/

/-- V-DEC-2. -/
theorem test_resetAck : after (exec .resetAck booted) = some (at_ .argReset) := by decide
theorem test_layoutResp : after (exec .layoutResp booted) = some (at_ .argLayout) := by decide
theorem test_selftestFail : after (exec .selftestFail booted) = some (at_ .argFail) := by decide
theorem test_operand_marker_value : after (exec (.krxOperand 0x7F) (at_ .argReset)) = some booted := by decide
theorem test_operand_selftest :
    after (exec (.krxOperand 0x7E) (at_ .argFail)) = some { booted with raised := [.selfTestFailure 0x7E] } := by decide

/-- S6. -/
theorem test_idle :
    emitted (exec .idle (withKeys 0x03 #v[0x04, 0x16, 0x07, 0, 0, 0])) = some [.krpt [0, 0, 0, 0, 0, 0, 0, 0]] := by decide
theorem test_idle_already : after (exec .idle booted) = some booted := by decide

/-- S7 and V-DEC-3. -/
theorem test_keyDown : emitted (exec (.keyDown 0x4D) booted) = some [.krpt [0, 0, 0x04, 0, 0, 0, 0, 0]] := by decide
theorem test_keyDown_unmapped :
    after (exec (.keyDown 0x00) booted) = some { booted with raised := [.unmappedScancode 0x00] } := by decide
theorem test_keyUp :
    emitted (exec (.keyUp 0x4D) (withKeys 0x02 #v[0x04, 0, 0, 0, 0, 0])) = some [.krpt [0x02, 0, 0, 0, 0, 0, 0, 0]] := by
  decide
theorem test_keyUp_unmapped :
    after (exec (.keyUp 0x00) booted) = some { booted with raised := [.unmappedScancode 0x80] } := by decide

/-- V-DEC-8. -/
theorem test_unexpected_halts :
    after (exec (.krxOperand 0x7F) (picky .argReset)) =
      some { picky .halt with raised := [.transportUnexpected 0x7F] } := by decide
theorem test_expected_operand : after (exec (.krxOperand 0x04) (picky .argReset)) = some (picky .first) := by decide

/-- V-DEC-7. -/
theorem test_krxFail :
    after (exec .krxFail (at_ .argReset)) = some { at_ .halt with raised := [.transportClosed] } := by decide
theorem test_krxFail_waits : after (exec .krxFail inFlight) = some inFlight := by decide

/-! ### The keyboard operations (95_test_vectors.md 3.3) -/

theorem test_press_least_slot :
    emitted (exec (.press 0x05) (withKeys 0 #v[0, 0, 0, 0, 0, 0x04])) = some [.krpt [0, 0, 0x05, 0, 0, 0, 0, 0x04]] := by
  decide
theorem test_press_overflow :
    after (exec (.press 0x0D) sixKeys) = some { sixKeys with raised := [.keyTableOverflow 0x0D] } := by decide
theorem test_release_leaves_hole :
    emitted (exec (.release 0x07) (withKeys 0 #v[0x04, 0x07, 0x16, 0, 0, 0])) =
      some [.krpt [0, 0, 0x04, 0, 0x16, 0, 0, 0]] := by decide
theorem test_release_modifier :
    (release 0xE5 (withKeys 0x22 #v[0, 0, 0, 0, 0, 0])).2.kmod = 0x02 ∧
      (release 0xE0 (withKeys 0x22 #v[0, 0, 0, 0, 0, 0])).1 = .noop := by decide
theorem test_releaseAll :
    emitted (exec .releaseAll (withKeys 0x22 #v[0x04, 0x05, 0x06, 0x07, 0x08, 0x09])) =
      some [.krpt [0, 0, 0, 0, 0, 0, 0, 0]] := by decide
theorem test_releaseAll_noop : (releaseAll booted).1 = .noop := by decide

/-! ### The pointer operations (V-PTR-1 to V-PTR-5) -/

theorem test_move : emitted (exec (.move 0x7F 0x80 0 0) booted) = some [.prpt [0x00, 0x7F, 0x80]] := by decide
theorem test_move_wheel :
    emitted (exec (.move 0x01 0xFF 0xFE 0x09) { booted with cfg := wheelCfg, pbtn := 2 }) =
      some [.prpt [0x02, 0x01, 0xFF, 0xFE]] := by decide
theorem test_move_padding :
    emitted (exec (.move 0x01 0xFF 0xFE 0x09) { booted with cfg := fullCfg }) =
      some [.prpt [0x00, 0x01, 0xFF, 0xFE, 0x09, 0x00]] := by decide
theorem test_setButtons : after (exec (.setButtons 5) booted) = some { booted with pbtn := 5 } := by decide
theorem test_setButtons_waits : after (exec (.setButtons 5) inFlight) = some inFlight := by decide
theorem test_buttonPress : emitted (exec (.buttonPress 3) { booted with pbtn := 1 }) = some [.prpt [0x05, 0, 0]] := by decide
theorem test_buttonPress_other : after (exec (.buttonPress 4) booted) = some booted := by decide
theorem test_buttonRelease : emitted (exec (.buttonRelease 1) { booted with pbtn := 5 }) = some [.prpt [0x04, 0, 0]] := by
  decide
theorem test_buttonRelease_other : after (exec (.buttonRelease 0xFF) booted) = some booted := by decide

/-! ### The class requests (V-CTL-1 to V-CTL-3, V-LED-1) -/

theorem test_getReport :
    emitted (exec (.getReport .k) (withKeys 0x02 #v[0x04, 0, 0, 0, 0, 0])) =
      some [.ctl (.data [0x02, 0, 0x04, 0, 0, 0, 0, 0])] := by decide
theorem test_getReport_waits : after (exec (.getReport .k) inFlight) = some inFlight := by decide
theorem test_getIdle : emitted (exec (.getIdle .p) { booted with idle := ⟨0x7D, 0xFF⟩ }) = some [.ctl (.data [0xFF])] := by
  decide
theorem test_getIdle_waits : after (exec (.getIdle .k) ledQueued) = some ledQueued := by decide
theorem test_getProtocol : emitted (exec (.getProtocol .k) booted) = some [.ctl (.data [0x01])] := by decide
theorem test_setReport :
    after (exec (.setReport 0x03) booted) = some { ledQueued with outs := [.ctl .ack] } := by decide
theorem test_setIdle :
    after (exec (.setIdle .p 0xFF) booted) = some { booted with idle := ⟨0x00, 0xFF⟩, outs := [.ctl .ack] } := by decide
theorem test_setProtocol :
    after (exec (.setProtocol .k 0x02) booted) = some { booted with proto := ⟨0x02, 0x01⟩, outs := [.ctl .ack] } := by decide
theorem test_reject :
    after (exec (.reject 0x09 0x01 0x0200) booted) =
      some { booted with outs := [.ctl .reject], raised := [.unsupportedRequest 0x09 0x01 0x0200] } := by decide
theorem test_activate :
    after (exec (.activate .k) { booted with idle := ⟨0x7D, 0xFF⟩, proto := ⟨0x02, 0x00⟩ }) =
      some { booted with idle := ⟨0x00, 0xFF⟩, proto := ⟨0x01, 0x00⟩ } := by decide
theorem test_response_wires :
    (CtlRsp.data [0x02, 0x00, 0x04]).rdata = 0x040002 ∧ (CtlRsp.data [0x02, 0x00, 0x04]).rlen = 3 := by decide

/-! ### The bare events (V-DEC-1, V-TXG-1, V-LED-2, V-RST-1) -/

theorem test_reset :
    after (exec .reset { sixKeys with pbtn := 3, oled := 5, inflight := ⟨true, true⟩, dstate := .halt }) =
      some { State.reset with cfg := testCfg } := by decide
theorem test_settle_behind_leds :
    (after (exec .settle { ledQueued with dstate := .settle })).map (·.ktx) =
      some [⟨0x0E, .ctl⟩, ⟨0x09, .ctl⟩, ⟨0x01, .dec⟩] := by decide
theorem test_ktxAccept_leds : (after (exec .ktxAccept ledQueued)).map (fun t => (t.dstate, t.outs)) =
    some (.first, [.ktx 0x0E]) := by decide
theorem test_ktxAccept_reset_command :
    (after (exec .ktxAccept { at_ .resetTx with ktx := [⟨0x01, .dec⟩] })).map (fun t => (t.dstate, t.outs, t.ktx)) =
      some (.first, [.ktx 0x01], []) := by decide
theorem test_txDoneK : (after (exec .txDoneK inFlight)).map (·.inflight) = some ⟨false, true⟩ := by decide
theorem test_txDoneP :
    after (exec .txDoneP { inFlight with pdx := 5, pdy := 0xFD, pbtn := 1 }) =
      some { booted with inflight := ⟨true, false⟩, pbtn := 1 } := by decide
theorem test_txDoneP_spurious : after (exec .txDoneP booted) = some booted := by decide

/-! ### The data formats -/

theorem test_cmdReset : (after (exec .cmdReset (at_ .settle))).map (·.ktx) = some [⟨0x01, .dec⟩] := by decide
theorem test_cmdLeds :
    (after (exec (.cmdLeds 9) { booted with oled := 0x03 })).map (·.ktx) = some ledQueued.ktx := by decide
theorem test_cmdLeds_other : after (exec (.cmdLeds 8) { booted with oled := 0x03 }) = some { booted with oled := 0x03 } := by
  decide
theorem test_kbdReport :
    emitted (exec (.kbdReport 0 0x04 0x16 0x07 0x09 0x0A 0x0B) sixKeys) =
      some [.krpt [0, 0, 0x04, 0x16, 0x07, 0x09, 0x0A, 0x0B]] := by decide
theorem test_ptrReport : emitted (exec (.ptrReport 1 0 0 0 0) { booted with pbtn := 1 }) = some [.prpt [1, 0, 0]] := by decide
theorem test_outputReport :
    (after (exec (.outputReport 0x03) booted)).map (fun t => (t.oled, t.ktx)) = some (0x03, ledQueued.ktx) := by decide
theorem test_sunLedMask :
    emitted (exec (.sunLedMask true false false true) { booted with oled := 0x03 }) = some [.ledMask 0x09] := by decide
theorem test_mouseRaw : emitted (exec (.mouseRaw 0x83) booted) = some [.mb 1] := by decide
theorem test_mouseRaw_all : emitted (exec (.mouseRaw 0x80) booted) = some [.mb 7] := by decide

/-! ### The step -/

theorem test_step_takes : emitted (step (offered booted [rx 0x4D])) = some [.krpt [0, 0, 0x04, 0, 0, 0, 0, 0]] := by decide

/-- V-DEC-5 and V-PTR-4: the line waits, the pointer does not. -/
theorem test_step_other_port :
    (after (step (offered { booted with inflight := ⟨true, false⟩ } [rx 0x4E, rxfail, ptrMove 1 (-1) 0 0]))).map
      (fun t => (t.outs, t.pending)) = some ([.prpt [0, 0x01, 0xFF]], [rx 0x4E, rxfail]) := by decide

theorem test_step_impossible : step (offered booted [.rst 0]) = .fault (.impossibleWord .strobeLow) := by rfl

/-- R8: a keyboard operation at the ports is no event; the byte behind it is taken. -/
theorem test_step_takes_no_operation :
    step (offered booted [.kop 0b0000000100]) = .next (offered booted [.kop 0b0000000100]) ∧
    emitted (step (offered booted [.kop 0b0000000101, rx 0x4D])) = some [.krpt [0, 0, 0x04, 0, 0, 0, 0, 0]] :=
  ⟨by rfl, by decide⟩

/-- R8: outside D_FIRST there is no KRX step that could invoke an operation. -/
theorem test_press_halted : after (exec (.press 0x04) (at_ .halt)) = some (at_ .halt) := by decide
theorem test_releaseAll_settling :
    after (exec .releaseAll { sixKeys with dstate := .settle }) = some { sixKeys with dstate := .settle } := by decide

/-- With M_IDLE = 0x10 the byte 0x90 is no marker, and R82 makes it a key-up. -/
theorem test_decode_marker_complement :
    decode { testCfg with mIdle := 0x10 } .first (.krx 0x10) = .ok .idle ∧
    decode { testCfg with mIdle := 0x10 } .first (.krx 0x90) = .ok (.keyUp 0x10) := by
  refine ⟨?_, ?_⟩ <;> rfl

/-- Its entry is dead (R70); the entries next to it are not. -/
theorem test_dead_entries :
    deadEntry { testCfg with mIdle := 0x10 } 0x10 = true ∧ deadEntry { testCfg with mIdle := 0x10 } 0x11 = false ∧
    deadEntry testCfg 0x7F = true ∧ deadEntry testCfg 0x7E = true ∧ deadEntry testCfg 0x7D = false := by decide

theorem test_fetch_word : emitted (step (State.reset.withFetchWord 8 0x4D)) = some [.krpt [0, 0, 0x04, 0, 0, 0, 0, 0]] := by
  decide
theorem test_fetch_request : emitted (step (State.reset.withFetchWord 32 0x02010000)) = some [.ctl (.data [0x00])] := by decide
/-- A keyboard operation word is run by itself, from `probe`, in the state a KRX step needs (log 15, log 18). -/
theorem test_fetch_operation :
    (emitted (step (State.reset.withFetchWord 16 0x0004)) = some [.krpt [0, 0, 0x04, 0, 0, 0, 0, 0]]) ∧
    (after (step (State.reset.withFetchWord 16 0x0004))).map (fun t => (t.dstate, t.probe)) = some (.first, none) := by
  decide
theorem test_table_words :
    decodeTableWord 8 0xFF = some .resetAck ∧ decodeTableWord 16 0x0104 = some (.release 0x04) ∧
    decodeTableWord 16 0x0E09 = some (.cmdLeds 9) ∧ decodeTableWord 40 0x202000000 = some (.buttonPress 2) := by decide

/-! ### Witnesses: states and operands that meet the hypotheses of the statements -/

theorem witness_StepKeepsTheInvariant :
    BlockInv (offered booted [rx 0x4D]) ∧ ∃ t, step (offered booted [rx 0x4D]) = .next t := by
  refine ⟨?_, _, rfl⟩
  unfold BlockInv KeyboardInv PointerInv BuildInv QueueInv
  decide

theorem witness_StartUpOpensTheReadLoop : decode testCfg .settle (.krx 0x4D) = .ok (.keyDown 0x4D) := by rfl

theorem witness_DecodeEncodeRoundTrip :
    configOk fullCfg = true ∧ (Instr.keyUp 0x7D).wf fullCfg = true ∧ (Instr.keyUp 0x7D).inContext .first = true ∧
    (Instr.ptrReport 7 0xFF 0x80 0x7F 0x01).wf fullCfg = true ∧ (Instr.krxOperand 0x7F).inContext .argFail = true ∧
    (Instr.reject 0x04 0x00 0xFFFF).wf fullCfg = true := by
  refine ⟨?_, ?_, ?_, ?_, ?_, ?_⟩ <;> rfl

theorem witness_FirstByteSelectsItsForm :
    ((picky .first).dstate = .first ∧ (picky .first).inflight.k = false ∧ (picky .first).probe = none) ∧
    (DState.first, (0x12 : Byte)) ∈ pickyCfg.unexpected ∧
    (∀ b ∈ ([0x00, 0x7D, 0x7E, 0x7F, 0x80, 0xFD, 0xFE, 0xFF] : List Byte), (DState.first, b) ∉ pickyCfg.unexpected) ∧
    pickyCfg.mResetAck = 0xFF ∧ pickyCfg.mLayout = 0xFE ∧ pickyCfg.mSelftestFail = 0x7E ∧ pickyCfg.mIdle = 0x7F ∧
    (∀ b ∈ ([0x00, 0x7D] : List Byte), b ∉ ([0xFF, 0xFE, 0x7E, 0x7F] : List Byte) ∧ b.getLsbD 7 = false) ∧
    ∀ b ∈ ([0x80, 0xFD] : List Byte), b ∉ ([0xFF, 0xFE, 0x7E, 0x7F] : List Byte) ∧ b.getLsbD 7 = true := by decide

theorem witness_RequestWordSelection :
    configOk testCfg = true ∧
    (testCfg.ifKbd = 0x00 ∧ testCfg.ifPtr = 0x01) ∧
    [testCfg.reqGetReport, testCfg.reqGetIdle, testCfg.reqGetProtocol, testCfg.reqSetReport, testCfg.reqSetIdle,
      testCfg.reqSetProtocol] = [0x01, 0x02, 0x03, 0x09, 0x0A, 0x0B] ∧
    ((0x02 : Byte) ≠ testCfg.ifKbd ∧ (0x02 : Byte) ≠ testCfg.ifPtr) ∧ (0x03 : Byte) ≠ 0x01 ∧
    (0x04 : Byte) ∉ ([0x01, 0x02, 0x03, 0x09, 0x0A, 0x0B] : List Byte) := by decide

theorem witness_ReportBytesOnTheirLanes :
    configOk booted.cfg = true ∧ 7 < (keyboardReport booted).length ∧ 2 < (pointerReport booted).length ∧
    5 < (reportOf .p { booted with cfg := fullCfg }).length := by decide

theorem witness_StepRunsTheDecodedEvent :
    ((offered booted [rx 0x4D]).probe = none ∧ (offered booted [rx 0x4D]).pending = rx 0x4D :: []) ∧
    (rx 0x4D).isInput = true ∧ decode testCfg .first (rx 0x4D) = .ok (.keyDown 0x4D) ∧
    enabled (.keyDown 0x4D) booted = true ∧
    ({ booted with probe := some (.kop 0b0100000111) } : State).probe = some (.kop 0b0100000111) ∧
    decode testCfg .first (.kop 0b0100000111) = .ok (.release 0x07) := by
  refine ⟨⟨?_, ?_⟩, ?_, ?_, ?_, ?_, ?_⟩ <;> rfl

theorem witness_WaitingFramesHoldOnlyTheirPorts :
    (offered { booted with inflight := ⟨true, false⟩ } [rx 0x4D, .kop 0x004, ptrSetb 1]).pending =
      [rx 0x4D, .kop 0x004] ++ ptrSetb 1 :: [] ∧ booted.probe = none ∧ (ptrSetb 1).isInput = true ∧
    ((rx 0x4D).port ≠ (ptrSetb 1).port ∧ (Frame.kop 0x004).port ≠ (ptrSetb 1).port ∧ (Frame.kop 0x004).isInput = false) ∧ decode testCfg .first (rx 0x4D) = .ok (.keyDown 0x4D) ∧
    enabled (.keyDown 0x4D) { booted with inflight := ⟨true, false⟩ } = false ∧
    decode testCfg .first (ptrSetb 1) = .ok (.setButtons 1) ∧
    enabled (.setButtons 1) { booted with inflight := ⟨true, false⟩ } = true := by
  refine ⟨?_, ?_, ?_, ?_, ?_, ?_, ?_, ?_⟩ <;> first | rfl | decide

theorem witness_NothingEnabledChangesNothing :
    (offered inFlight [rx 0x4D, .ledIn 0x03]).pending = [rx 0x4D, .ledIn 0x03] ∧ inFlight.probe = none ∧
    decode testCfg .first (rx 0x4D) = .ok (.keyDown 0x4D) ∧
    enabled (.keyDown 0x4D) (offered inFlight [rx 0x4D, .ledIn 0x03]) = false ∧ (Frame.ledIn 0x03).isInput = false := by
  refine ⟨?_, ?_, ?_, ?_, ?_⟩ <;> rfl

theorem witness_DisabledEventsChangeNothing : enabled .settle booted = false ∧ enabled .idle inFlight = false := by decide

theorem witness_EnablingConditions :
    decode testCfg .argFail (.krx 0xFF) = .ok (.krxOperand 0xFF) ∧
    decode testCfg .first (.pop 0x3FF000000) = .ok (.buttonRelease 0xFF) ∧
    decode testCfg .first (.ctl 0x01010100 0) = .ok (.getReport .p) := by
  refine ⟨?_, ?_, ?_⟩ <;> rfl

/-- A configuration with an unpaired marker, legal under R5. -/
def unpairedCfg : Config := { testCfg with mIdle := 0x10 }

theorem witness_NoStepWritesTheRomOrReadsADeadEntry :
    (∃ t, step (offered booted [rx 0x63]) = .next t) ∧
    (configOk unpairedCfg = true ∧ (∃ t, exec (.keyUp 0x10) { booted with cfg := unpairedCfg } = .next t) ∧
      ∀ sc : BitVec 7, (∀ m ∈ [unpairedCfg.mIdle, unpairedCfg.mResetAck, unpairedCfg.mLayout, unpairedCfg.mSelftestFail],
        m.extractLsb' 0 7 ≠ sc) →
        Memory.read ((0x10, 0x2C) :: testRom) sc.toNat = Memory.read unpairedCfg.scanrom sc.toNat) ∧
    (∃ m ∈ [unpairedCfg.mIdle, unpairedCfg.mResetAck, unpairedCfg.mLayout, unpairedCfg.mSelftestFail],
      m.extractLsb' 0 7 = (0x10 : BitVec 7)) ∧
    booted.dstate = .first ∧ booted.inflight.k = false ∧
    (DState.first, (0#1 ++ 0x10#7 : Byte)) ∉ unpairedCfg.unexpected ∧
    (DState.first, (1#1 ++ 0x10#7 : Byte)) ∉ unpairedCfg.unexpected := by
  refine ⟨⟨_, rfl⟩, ⟨rfl, ⟨_, rfl⟩, fun sc h => ?_⟩, by decide, rfl, rfl, by decide, by decide⟩
  have hne : sc ≠ 0x10 := fun hc => h 0x10 (by decide) (by rw [hc]; decide)
  have : ((0x10 : Nat) == sc.toNat) = false := by
    rw [beq_eq_false_iff_ne]
    exact fun hc => hne (BitVec.eq_of_toNat_eq hc.symm)
  simp [Memory.read, this, unpairedCfg, testCfg]

theorem witness_SettleQueuesTheResetCommand :
    ((at_ .settle).dstate = .settle ∧ booted.dstate ≠ .settle) ∧ BlockInv { ledQueued with dstate := .settle } := by
  refine ⟨by decide, ?_⟩
  unfold BlockInv KeyboardInv PointerInv BuildInv QueueInv
  decide

theorem witness_LineTakesTheHeadByte :
    ({ booted with ktx := [⟨0x01, .dec⟩] } : State).ktx = ⟨0x01, .dec⟩ :: [] ∧
    ledQueued.ktx = ⟨0x0E, .ctl⟩ :: [⟨0x09, .ctl⟩] := by decide

theorem witness_MarkersOpenTheirOperandState :
    booted.dstate = .first ∧ booted.inflight.k = false ∧ (DState.first, booted.cfg.mResetAck) ∉ booted.cfg.unexpected ∧
    (DState.first, booted.cfg.mLayout) ∉ booted.cfg.unexpected ∧
    (DState.first, booted.cfg.mSelftestFail) ∉ booted.cfg.unexpected := by decide

theorem witness_OperandByteReturnsToTheReadLoop :
    (picky .argReset).inflight.k = false ∧ ((picky .argReset).dstate, (0x00 : Byte)) ∉ pickyCfg.unexpected ∧
    ((picky .argLayout).dstate, (0x7F : Byte)) ∉ pickyCfg.unexpected ∧
    ((picky .argFail).dstate, (0xFF : Byte)) ∉ pickyCfg.unexpected := by decide

theorem witness_UnexpectedByteHaltsTheDecoder :
    ((picky .argReset).dstate.reads = true ∧ (picky .first).dstate.reads = true) ∧ (picky .argReset).inflight.k = false ∧
    decode pickyCfg .argReset (.krx 0x7F) = .ok (.krxOperand 0x7F) ∧ ((picky .argReset).dstate, (0x7F : Byte)) ∈ pickyCfg.unexpected ∧
    decode pickyCfg .first (.krx 0x12) = .ok (.keyDown 0x12) ∧ ((picky .first).dstate, (0x12 : Byte)) ∈ pickyCfg.unexpected := by
  refine ⟨?_, ?_, ?_, ?_, ?_, ?_⟩ <;> first | rfl | decide

theorem witness_LineFailureHaltsTheDecoder :
    (at_ .argLayout).inflight.k = false ∧ ((at_ .argLayout).dstate = .argLayout ∧ booted.dstate = .first) := by decide

theorem witness_HaltIsLeftOnlyByReset :
    (at_ .halt).dstate = .halt ∧ BlockInv (at_ .halt) ∧ isLineByte .idle = true ∧ isPointerOp (.setButtons 7) = true ∧
    Instr.txDoneK ≠ .reset ∧ ∃ t, exec .txDoneK (at_ .halt) = .next t := by
  refine ⟨rfl, ?_, rfl, rfl, by decide, _, rfl⟩
  unfold BlockInv KeyboardInv PointerInv BuildInv QueueInv
  decide

theorem witness_ReportInFlightHoldsTheLine :
    inFlight.inflight.k = true ∧ decode inFlight.cfg inFlight.dstate (.krx 0xFF) = .ok .resetAck := ⟨rfl, rfl⟩

theorem witness_IdleMarkerReleasesEverythingAtOnce :
    (booted.dstate = .first ∧ booted.inflight.k = false ∧ (DState.first, booted.cfg.mIdle) ∉ booted.cfg.unexpected) ∧
    (booted.kmod = 0x00 ∧ ∀ i : Fin 6, booted.kkey[i] = 0x00) ∧
    ¬ ((withKeys 0x80 #v[0, 0, 0, 0, 0, 0]).kmod = 0x00 ∧ ∀ i : Fin 6, (withKeys 0x80 #v[0, 0, 0, 0, 0, 0]).kkey[i] = 0x00) ∧
    ¬ ((withKeys 0 #v[0, 0, 0, 0, 0, 0x2C]).kmod = 0x00 ∧ ∀ i : Fin 6, (withKeys 0 #v[0, 0, 0, 0, 0, 0x2C]).kkey[i] = 0x00) := by
  decide

theorem witness_KeyDownPressesTheMappedCode :
    booted.dstate = .first ∧ booted.inflight.k = false ∧ (DState.first, (0#1 ++ 0x7D#7 : Byte)) ∉ booted.cfg.unexpected ∧
    (∀ m ∈ [booted.cfg.mIdle, booted.cfg.mResetAck, booted.cfg.mLayout, booted.cfg.mSelftestFail],
      m.extractLsb' 0 7 ≠ 0x00#7 ∧ m.extractLsb' 0 7 ≠ 0x7D#7) ∧
    Memory.read booted.cfg.scanrom (0x00#7).toNat = 0x00 ∧ Memory.read booted.cfg.scanrom (0x7D#7).toNat ≠ 0x00 := by decide

theorem witness_KeyUpReleasesTheMappedCode :
    booted.dstate = .first ∧ booted.inflight.k = false ∧ (DState.first, (1#1 ++ 0x7D#7 : Byte)) ∉ booted.cfg.unexpected ∧
    (∀ m ∈ [booted.cfg.mIdle, booted.cfg.mResetAck, booted.cfg.mLayout, booted.cfg.mSelftestFail],
      m.extractLsb' 0 7 ≠ 0x00#7 ∧ m.extractLsb' 0 7 ≠ 0x7D#7) ∧
    Memory.read booted.cfg.scanrom (0x00#7).toNat = 0x00 ∧ Memory.read booted.cfg.scanrom (0x7D#7).toNat ≠ 0x00 := by decide

theorem witness_DecoderMovesOnlyAlongItsTable :
    BlockInv booted ∧ ∃ t, exec .layoutResp booted = .next t := by
  refine ⟨?_, _, rfl⟩
  unfold BlockInv KeyboardInv PointerInv BuildInv QueueInv
  decide

/-- PRESS: code 0; a modifier set and clear, at both ends of the range; a key present, the codes next to the range, the
table full. -/
theorem witness_PressRecordsTheKey :
    (booted.dstate = .first ∧ sixKeys.dstate = .first) ∧
    booted.inflight.k = false ∧ sixKeys.inflight.k = false ∧ booted.cfg.modBase.toNat = 0xE0 ∧
    ((withKeys 0x01 #v[0, 0, 0, 0, 0, 0]).kmod.getLsbD 0 = true ∧ booted.kmod.getLsbD 7 = false) ∧
    (∃ i : Fin 6, sixKeys.kkey[i] = 0x0B) ∧
    (∀ u ∈ ([0x01, 0xDF, 0xE8, 0xFF] : List Byte), u ≠ 0x00 ∧ ¬ (0xE0 ≤ u.toNat ∧ u.toNat ≤ 0xE7) ∧
      (∀ i : Fin 6, booted.kkey[i] ≠ u) ∧ booted.kkey[(0 : Fin 6)] = 0x00 ∧ ∀ i : Fin 6, sixKeys.kkey[i] ≠ u) ∧
    ∀ i : Fin 6, sixKeys.kkey[i] ≠ 0x00 := by decide

theorem witness_ReleaseForgetsTheKey :
    sixKeys.dstate = .first ∧ sixKeys.inflight.k = false ∧ sixKeys.kmod.getLsbD 7 = false ∧
    (withKeys 0x80 #v[0, 0, 0, 0, 0, 0]).kmod.getLsbD 7 = true ∧ (∀ i : Fin 6, sixKeys.kkey[i] ≠ 0xE8) ∧
    (sixKeys.kkey[(5 : Fin 6)] = 0x0B ∧ ∀ i : Fin 6, i < 5 → sixKeys.kkey[i] ≠ 0x0B) := by decide

theorem witness_ReleaseAllZeroesTheReport :
    (booted.dstate = .first ∧ sixKeys.dstate = .first ∧ sixKeys.inflight.k = false) ∧
    booted.inflight.k = false ∧ (booted.kmod = 0x00 ∧ ∀ i : Fin 6, booted.kkey[i] = 0x00) ∧
    ¬ (sixKeys.kmod = 0x00 ∧ ∀ i : Fin 6, sixKeys.kkey[i] = 0x00) := by decide

theorem witness_OnlyAChangeTransmits :
    (press 0x04 booted).1 = .changed ∧ (press 0x0D sixKeys).1 = .overflow ∧ (release 0x0D sixKeys).1 ≠ .changed ∧
    (releaseAll sixKeys).1 = .changed := by decide

theorem witness_ReportShowsTheHeldKeys :
    configOk booted.cfg = true ∧ booted.kmod = 0x00 ∧ (∀ i : Fin 6, booted.kkey[i] = 0x00) ∧ booted.dstate = .first ∧
    booted.inflight.k = false ∧
    ∀ i ∈ [Instr.press 0x04, .press 0xE1, .release 0x04, .releaseAll], isKeyOp i = true := by decide

theorem witness_ReleaseUndoesPress : configOk sixKeys.cfg = true ∧ (press 0xE7 sixKeys).1 = .changed ∧
    (press 0x0D (withKeys 0 #v[0x04, 0, 0x16, 0, 0, 0])).1 = .changed := by decide

theorem witness_OnlyTheOwnersPortChangesAReport :
    (offered booted [rx 0x4D]).probe = none ∧
    ∃ t, step (offered booted [rx 0x4D]) = .next t ∧ t.kkey ≠ booted.kkey := by
  refine ⟨rfl, _, rfl, by decide⟩

theorem witness_MoveSendsItsDeltas : ({ booted with cfg := fullCfg } : State).inflight.p = false := by decide

theorem witness_SetButtonsNeverTransmits : booted.inflight.p = false := by decide

theorem witness_ButtonPressTransmits :
    booted.inflight.p = false ∧ ¬ ((0 : Byte) = 1 ∨ (0 : Byte) = 2 ∨ (0 : Byte) = 3) ∧
    ¬ ((4 : Byte) = 1 ∨ (4 : Byte) = 2 ∨ (4 : Byte) = 3) := by decide

theorem witness_ButtonReleaseTransmits :
    booted.inflight.p = false ∧ ¬ ((0 : Byte) = 1 ∨ (0 : Byte) = 2 ∨ (0 : Byte) = 3) ∧
    ¬ ((4 : Byte) = 1 ∨ (4 : Byte) = 2 ∨ (4 : Byte) = 3) := by decide

theorem witness_PointerOperationsWaitForTheGuard :
    isPointerOp (.buttonRelease 3) = true ∧ enabled (.buttonRelease 3) booted = true ∧ BlockInv booted := by
  refine ⟨rfl, rfl, ?_⟩
  unfold BlockInv KeyboardInv PointerInv BuildInv QueueInv
  decide

theorem witness_KeyboardReportEmission : sixKeys.inflight.k = false := by decide

theorem witness_PointerReportEmission : ({ booted with pbtn := 7 } : State).inflight.p = false := by decide

theorem witness_CompletionFreesItsEndpoint :
    inFlight.inflight.k = true ∧ inFlight.inflight.p = true ∧ booted.inflight.k = false ∧ booted.inflight.p = false := by
  decide

theorem witness_AtMostOneReportInFlight :
    Instr.reset ∉ [Instr.keyDown 0x4D, .keyDown 0x53] ∧ Instr.txDoneK ∉ [Instr.keyDown 0x4D, .keyDown 0x53] ∧
    Instr.txDoneP ∉ [Instr.move 1 1 0 0] ∧ ∃ t, execAll [.keyDown 0x4D, .keyDown 0x53] booted = .next t := by
  refine ⟨by decide, by decide, by decide, _, rfl⟩

theorem witness_ReportIsStableInFlight :
    inFlight.inflight.k = true ∧ ∃ t, step (offered inFlight [rx 0x4D, .act 0b10]) = .next t ∧ t.inflight = ⟨true, true⟩ :=
  ⟨rfl, _, rfl, rfl⟩

theorem witness_GetIdleAndProtocolAnswer : ∀ x ∈ booted.ktx, x.tag ≠ .ctl := by decide

theorem witness_SetIdleAndProtocolStore :
    (∀ x ∈ booted.ktx, x.tag ≠ .ctl) ∧ configOk booted.cfg = true := by decide

theorem witness_GetReportAnswersTheReport :
    ((∀ x ∈ booted.ktx, x.tag ≠ .ctl) ∧ booted.inflight.k = false ∧ booted.inflight.p = false ∧ BlockInv booted) ∧
    inFlight.probe = none ∧ (∀ e, inFlight.inflight.get e = true) ∧ (∀ x ∈ inFlight.ktx, x.tag ≠ .ctl) ∧
    (ctl 0x01 0x01 0x0100 0).port = .ctl ∧ (ctl 0x02 0x00 0 0).port = .ctl ∧
    decode testCfg .first (ctl 0x01 0x01 0x0100 0) = .ok (.getReport .p) := by
  refine ⟨⟨by decide, rfl, rfl, ?_⟩, rfl, fun e => by cases e <;> rfl, by decide, rfl, rfl, rfl⟩
  unfold BlockInv KeyboardInv PointerInv BuildInv QueueInv
  decide

theorem witness_SetReportForwardsTheLeds :
    ∀ x ∈ ({ at_ .resetTx with ktx := [⟨0x01, .dec⟩] } : State).ktx, x.tag ≠ .ctl := by decide

theorem witness_RejectAnswersAndChangesNothing : ∀ x ∈ inFlight.ktx, x.tag ≠ .ctl := by decide

theorem witness_ResponseWires :
    configOk ({ booted with cfg := fullCfg } : State).cfg = true ∧
    5 < (reportOf .p { booted with cfg := fullCfg }).length ∧ 7 < (reportOf .k booted).length := by decide

theorem witness_QueuedLedBytesHoldTheControlContext :
    ctlBusy ledQueued = true ∧ isRequest (.getIdle .k) = true ∧ isLineByte .idle = true := by decide

theorem witness_IdleAndProtocolAreStorageOnly :
    (∀ e, Instr.setReport 0x03 ≠ .getIdle e) ∧ (∀ e, Instr.setReport 0x03 ≠ .getProtocol e) ∧
    ∃ t, exec (.setReport 0x03) booted = .next t := by
  refine ⟨fun e h => (nomatch h), fun e h => (nomatch h), _, rfl⟩

theorem witness_ResetCommandIsSentOnce : (at_ .settle).dstate = .settle := by decide

theorem witness_LedCommandCarriesThePackedMask :
    (∀ x ∈ ({ booted with oled := 0xF5 } : State).ktx, x.tag ≠ .ctl) ∧
    ((5#4).getLsbD 0 = (0xF5#8).getLsbD 0 ∧ (5#4).getLsbD 1 = (0xF5#8).getLsbD 3 ∧
      (5#4).getLsbD 2 = (0xF5#8).getLsbD 2 ∧ (5#4).getLsbD 3 = (0xF5#8).getLsbD 1) := by decide

theorem witness_OutputReportIsStoredAndForwarded : ∀ x ∈ booted.ktx, x.tag ≠ .ctl := by decide

theorem witness_ButtonMapperAnswers :
    (∀ e ∈ booted.cfg.mouseBtn, e.1 ≠ 0x87) ∧
    ({ testCfg with mouseBtn := [(0x87, 5), (0x83, 1), (0x83, 2)] } : Config).mouseBtn =
      [(0x87, 5)] ++ (0x83, 1) :: [(0x83, 2)] ∧
    ∀ e ∈ [((0x87 : Byte), (5 : BitVec 3))], e.1 ≠ 0x83 := by
  refine ⟨fun e h => ?_, rfl, by simp⟩
  cases h

theorem witness_AgentsWriteOnlyTheirOwnState :
    agentOf (.keyDown 0x4D) = .decoder ∧ agentOf (.move 1 1 0 0) = .pointer ∧ agentOf (.setReport 3) = .control ∧
    agentOf .txDoneP = .completion ∧ agentOf (.mouseRaw 0x83) = .mapper ∧ agentOf .reset = .reset ∧
    ∃ t, exec (.keyDown 0x4D) booted = .next t :=
  ⟨rfl, rfl, rfl, rfl, rfl, rfl, _, rfl⟩

theorem witness_StepsTakeEventsOnly :
    (offered booted [rx 0x4D]).probe = none ∧ (∃ t, step (offered booted [rx 0x4D]) = .next t) ∧
    (∃ t, step { booted with probe := some (.kop 0x004) } = .next t) ∧ isKeyOp .releaseAll = true :=
  ⟨rfl, ⟨_, rfl⟩, ⟨_, rfl⟩, rfl⟩

end Sys2Proof.Tests
end

section
/-! SUPPORT. Which frame a step takes from the ports (R7), and the rows of R8's table as they hold of whatever a port's word
decodes to. -/

namespace Sys2Proof.Machine

variable {s : State}

/-! ### The frame taken next -/

/-- A frame that stands on no input port, or whose event is disabled, cannot be taken. -/
theorem frameReady_eq_false {f : Frame}
    (h : f.isInput = false ∨ ∃ i, decode s.cfg s.dstate f = .ok i ∧ enabled i s = false) : frameReady s f = false := by
  rcases h with hin | ⟨i, hd, hi⟩
  · simp [frameReady, hin]
  · simp [frameReady_ok hd, hi]

/-- Where no frame can be taken, none is. -/
theorem pick_eq_none {held : List Port} {fs : List Frame} (h : ∀ f ∈ fs, frameReady s f = false) :
    pick s held fs = none := by
  induction fs generalizing held with
  | nil => rfl
  | cons f fs ih =>
    have hf : frameReady s f = false := h f List.mem_cons_self
    have hfs : pick s (f.port :: held) fs = none := ih fun g hg => h g (List.mem_cons_of_mem f hg)
    simp [pick, hf, hfs]

/-- A frame that can be taken is taken past frames of other ports that cannot, and these stay offered in their order. The
held ports grow along the frames passed over, but never by the frame's own. -/
theorem pick_past_waiting {held : List Port} {pre post : List Frame} {f : Frame} (hf : frameReady s f = true)
    (hheld : f.port ∉ held) (hpre : ∀ g ∈ pre, g.port ≠ f.port ∧ frameReady s g = false) :
    pick s held (pre ++ f :: post) = some (f, pre ++ post) := by
  induction pre generalizing held with
  | nil => simp [pick, hf, hheld]
  | cons g pre ih =>
    obtain ⟨hport, hg⟩ := hpre g List.mem_cons_self
    have hheld' : f.port ∉ g.port :: held := by simp [hheld, hport.symm]
    have hrest := ih hheld' fun g' hg' => hpre g' (List.mem_cons_of_mem g hg')
    simp [pick, hg, hrest]

/-! ### The enabling conditions (R8) -/

theorem enabled_classify (c : Config) (b : Byte) (s : State) : enabled (classify c b) s = firstReady s := by
  unfold classify
  repeat' split
  all_goals rfl

/-- Whatever a byte of the keyboard line decodes to is enabled exactly while the line is read: an operand in an operand state,
a first byte in `D_FIRST`. -/
theorem enabled_decodeKrx (b : Byte) (s : State) : enabled (decodeKrx s.cfg s.dstate b) s = krxReady s := by
  cases ha : s.dstate.isArg with
  | true => simp [decodeKrx, ha, enabled, argReady, krxReady, DState.reads]
  | false => simp [decodeKrx, ha, enabled_classify, firstReady, krxReady, DState.reads]

theorem enabled_decodePop (w : BitVec 34) (s : State) : enabled (decodePop w) s = popReady s := by
  simp only [decodePop]
  repeat' split
  all_goals rfl

theorem decodeCtl_isRequest (c : Config) (w : BitVec 32) (data : Byte) : isRequest (decodeCtl c w data) = true := by
  simp only [decodeCtl, decodeRequest]
  repeat' split
  all_goals rfl

/-- A class request waits for the control context, and GET_REPORT for the guard of its endpoint as well. -/
theorem enabled_request_iff {i : Instr} (h : isRequest i = true) :
    enabled i s = true ↔ ctlBusy s = false ∧ ∀ e, i = .getReport e → s.inflight.get e = false := by
  cases i with
  | getReport e => simp [enabled]
  | getIdle | getProtocol | setReport | setIdle | setProtocol | reject => simp [enabled]
  | _ => cases h

theorem krxReady_iff :
    krxReady s = true ↔
      (s.dstate = .first ∨ s.dstate = .argReset ∨ s.dstate = .argLayout ∨ s.dstate = .argFail) ∧
        s.inflight.k = false := by
  simp [krxReady, reads_iff]

theorem popReady_iff : popReady s = true ↔ s.inflight.p = false := by
  simp [popReady]

theorem ktxValid_iff : ktxValid s = true ↔ s.ktx ≠ [] := by
  simp [ktxValid]

theorem firstReady_iff : firstReady s = true ↔ s.dstate = .first ∧ s.inflight.k = false := by
  simp [firstReady]

/-! ### The keyboard operations are no events (R8) -/

theorem enabled_keyOp {i : Instr} (h : isKeyOp i = true) (s : State) : enabled i s = firstReady s := by
  cases i with
  | press | release | releaseAll => rfl
  | _ => cases h

theorem isKeyOp_eq_false_of_isEvent {i : Instr} (h : i.isEvent = true) : isKeyOp i = false := by
  cases i with
  | press | release | releaseAll => cases h
  | _ => rfl

end Sys2Proof.Machine
end

section
/-! THE STATEMENTS OF 00_scope.md: what a step takes (R7), when an event is enabled (R8), and that only events are taken. -/

namespace Sys2Proof.Machine

/-- Settles O11: the frames passed over cannot be taken and stand on other ports, so `pick` takes the ready frame. -/
theorem waitingFramesHoldOnlyTheirPorts : Obligations.WaitingFramesHoldOnlyTheirPorts := by
  intro s pre post f i hprobe hpending hpre hin hdecode henabled
  have hf : frameReady s f = true := by simp [frameReady_ok hdecode, hin, henabled]
  have hpick : pick s [] s.pending = some (f, pre ++ post) := by
    rw [hpending]
    exact pick_past_waiting hf List.not_mem_nil fun g hg =>
      ⟨(hpre g hg).1, frameReady_eq_false (hpre g hg).2⟩
  exact step_of_pick hprobe hpick hdecode

/-- Settles O12: no offered frame can be taken, so `pick` takes none. -/
theorem nothingEnabledChangesNothing : Obligations.NothingEnabledChangesNothing := by
  intro s hprobe hwait
  exact step_of_pick_none hprobe (pick_eq_none fun f hf => frameReady_eq_false (hwait f hf))

/-- Settles O14, row by row of R8's table: the rows of KRX, PTR_OP and CTL hold of every word of their ports. -/
theorem enablingConditions : Obligations.EnablingConditions := by
  intro s
  refine ⟨rfl, ?settle, ktxValid_iff, ?krx, krxReady_iff, ?pop, rfl, rfl, ?ctl, fun _ => rfl⟩
  case settle => simp [enabled]
  case krx =>
    rintro b i ⟨⟩
    rw [enabled_decodeKrx]
    exact krxReady_iff
  case pop =>
    rintro w i ⟨⟩
    rw [enabled_decodePop]
    exact popReady_iff
  case ctl =>
    rintro w data i ⟨⟩
    rw [enabled_request_iff (decodeCtl_isRequest s.cfg w data), ctlBusy_eq_false_iff]

/-- Settles O60: the frame a step takes stands on an input port, so it is an event, and `pick` takes it only where it is
enabled. -/
theorem stepsTakeEventsOnly : Obligations.StepsTakeEventsOnly := by
  refine ⟨rfl, fun s t => step_probe_none, ?events, ?keyOps⟩
  case events =>
    intro s t hprobe hstep
    rcases step_cases hstep with ⟨_, _, hsame⟩ | ⟨_, f, rest, i, hpick, hdecode, hexec⟩ | ⟨f, _, hplaced, _, _⟩
    · exact .inl hsame
    · obtain ⟨hready, _, pre, post, hpending, _⟩ := pick_some hpick
      have hmem : f ∈ s.pending := by simp [hpending]
      have henabled : enabled i s = true := by
        rw [frameReady_ok hdecode, Bool.and_eq_true] at hready
        exact hready.2
      have hevent : i.isEvent = true := pick_isEvent hpick hdecode
      exact .inr ⟨f, rest, i, hpick, hmem, frameReady_isInput hready, hdecode, hevent,
        isKeyOp_eq_false_of_isEvent hevent, henabled, hexec⟩
    · rw [hprobe] at hplaced
      cases hplaced
  case keyOps =>
    intro s i hop
    rw [enabled_keyOp hop]
    exact firstReady_iff

/-- Settles O10: at the head of the offered frames nothing waits before a frame, so this is O11 with no frame passed over. -/
theorem stepRunsTheDecodedEvent : Obligations.StepRunsTheDecodedEvent := by
  intro s f rest i hdecode
  refine ⟨fun hprobe hpending hin henabled => ?_, fun hplaced => step_of_probe hplaced hdecode⟩
  exact waitingFramesHoldOnlyTheirPorts s [] rest f i hprobe hpending (by simp) hin hdecode henabled

/-- Settles O13: every meaning runs its effect under the event's own condition. -/
theorem disabledEventsChangeNothing : Obligations.DisabledEventsChangeNothing :=
  fun _ _ => exec_disabled

end Sys2Proof.Machine
end

section
/-! SUPPORT. The access table of R40: what each agent's events may write, said once of every event's effect. -/

namespace Sys2Proof.Machine

variable {s t : State}

/-- What the agent's column of R40 leaves unchanged: the state after an event of the agent is the state before it but for the
column; RESET leaves the configuration and the model's own fields (log 22). -/
def OwnColumn (a : Agent) (s t : State) : Prop :=
  match a with
  | .decoder =>
    t = { s with
      kmod := t.kmod, kkey := t.kkey, inflight := ⟨t.inflight.k, s.inflight.p⟩, dstate := t.dstate,
      ktx := t.ktx, outs := t.outs, raised := t.raised }
  | .pointer =>
    t = { s with
      pbtn := t.pbtn, pdx := t.pdx, pdy := t.pdy, pwheel := t.pwheel, ppan := t.ppan,
      inflight := ⟨s.inflight.k, t.inflight.p⟩, outs := t.outs }
  | .control =>
    t = { s with
      oled := t.oled, idle := t.idle, proto := t.proto, ktx := t.ktx, outs := t.outs, raised := t.raised }
  | .completion =>
    t = { s with
      pdx := t.pdx, pdy := t.pdy, pwheel := t.pwheel, ppan := t.ppan, inflight := t.inflight,
      dstate := t.dstate, ktx := t.ktx, outs := t.outs }
  | .mapper => t = { s with outs := t.outs }
  | .reset => t.outs = s.outs ∧ t.raised = s.raised ∧ t.cfg = s.cfg ∧ t.pending = s.pending ∧ t.probe = s.probe

/-- From `s` to `t` an event of agent `a` has added to what is emitted and raised, and written its own column only. -/
structure AgentWrites (a : Agent) (s t : State) : Prop where
  outs : s.outs <+: t.outs
  raised : s.raised <+: t.raised
  column : OwnColumn a s t

theorem AgentWrites.refl (a : Agent) (s : State) : AgentWrites a s s :=
  ⟨List.prefix_rfl, List.prefix_rfl, by cases a with
    | reset => exact ⟨rfl, rfl, rfl, rfl, rfl⟩
    | _ => rfl⟩

/-! ### The decoder's column -/

theorem goto_writes (d : DState) (h : AgentWrites .decoder s t) : AgentWrites .decoder s (goto d t) := by
  obtain ⟨houts, hraised, hcolumn⟩ := h
  refine ⟨houts, hraised, ?_⟩
  rw [OwnColumn] at hcolumn ⊢
  rw [hcolumn]
  rfl

theorem raiseCond_writes (x : Condition) (s : State) : AgentWrites .decoder s (raiseCond x s) :=
  ⟨List.prefix_rfl, List.prefix_append .., rfl⟩

theorem takeByte_writes {b : Byte} {form : State → State} (h : AgentWrites .decoder s (form s)) :
    AgentWrites .decoder s (takeByte b form s) := by
  rcases takeByte_cases b form s with ⟨_, htake⟩ | ⟨_, htake⟩ <;> rw [htake]
  · exact raiseCond_writes _ s
  · exact h

theorem press_writes (u : Byte) (s : State) : AgentWrites .decoder s (press u s).2 := by
  rcases press_cases u s with ⟨h, _⟩ | ⟨_, _, _, h⟩ | ⟨_, _, _, j, _, h⟩ | ⟨_, _, _, _, h⟩ <;> rw [h]
  · exact .refl _ s
  · exact ⟨List.prefix_append .., List.prefix_rfl, rfl⟩
  · exact ⟨List.prefix_append .., List.prefix_rfl, rfl⟩
  · exact raiseCond_writes _ s

theorem release_writes (u : Byte) (s : State) : AgentWrites .decoder s (release u s).2 := by
  rcases release_cases u s with ⟨h, _⟩ | ⟨_, _, _, h⟩ | ⟨_, _, j, _, h⟩ <;> rw [h]
  · exact .refl _ s
  · exact ⟨List.prefix_append .., List.prefix_rfl, rfl⟩
  · exact ⟨List.prefix_append .., List.prefix_rfl, rfl⟩

theorem releaseAll_writes (s : State) : AgentWrites .decoder s (releaseAll s).2 := by
  rcases releaseAll_cases s with ⟨_, h⟩ | ⟨_, h⟩ <;> rw [h]
  · exact .refl _ s
  · exact ⟨List.prefix_append .., List.prefix_rfl, rfl⟩

/-- A key transition is a condition or its operation, and then back to `D_FIRST`. -/
theorem keyTransition_cases (b : Byte) (op : Byte → State → Status × State) (s : State) :
    keyTransition b op s = goto .first (raiseCond (.unmappedScancode b) s) ∨
    ∃ u, keyTransition b op s = goto .first (op u s).2 := by
  simp only [keyTransition]
  split
  · exact .inl rfl
  · exact .inr ⟨_, rfl⟩

theorem keyTransition_writes {b : Byte} {op : Byte → State → Status × State}
    (h : ∀ u, AgentWrites .decoder s (op u s).2) : AgentWrites .decoder s (keyTransition b op s) := by
  rcases keyTransition_cases b op s with hkey | ⟨u, hkey⟩ <;> rw [hkey]
  · exact goto_writes _ (raiseCond_writes _ s)
  · exact goto_writes _ (h u)

/-! ### Every agent's column -/

theorem acceptHead_writes (s : State) : AgentWrites .completion s (acceptHead s) := by
  cases h : s.ktx with
  | nil => simpa [acceptHead, h] using AgentWrites.refl .completion s
  | cons x rest =>
    rw [acceptHead_cons h]
    exact ⟨List.prefix_append .., List.prefix_rfl, rfl⟩

/-- Every event writes the column of its agent only (R40). -/
theorem effect_writes (i : Instr) (s : State) : AgentWrites (agentOf i) s (effect i s) := by
  cases i with
  | resetAck | layoutResp | selftestFail => exact takeByte_writes (goto_writes _ (.refl _ s))
  | idle =>
    rw [effect]
    refine takeByte_writes ?_
    exact goto_writes _ (releaseAll_writes s)
  | keyDown sc => exact takeByte_writes (keyTransition_writes fun u => press_writes u s)
  | keyUp sc => exact takeByte_writes (keyTransition_writes fun u => release_writes u s)
  | krxOperand v =>
    rw [effect]
    refine takeByte_writes ?_
    refine goto_writes _ ?_
    split
    · exact raiseCond_writes _ s
    · exact .refl _ s
  | press u => exact press_writes u s
  | release u => exact release_writes u s
  | releaseAll => exact releaseAll_writes s
  | krxFail => exact raiseCond_writes _ s
  | buttonPress n | buttonRelease n =>
    simp only [effect, buttonPress, buttonRelease]
    split
    · exact ⟨List.prefix_append .., List.prefix_rfl, rfl⟩
    · exact .refl _ s
  | ktxAccept => exact acceptHead_writes s
  | txDoneK | txDoneP =>
    simp only [effect]
    split
    · exact ⟨List.prefix_rfl, List.prefix_rfl, rfl⟩
    · exact .refl _ s
  | reject => exact ⟨List.prefix_append .., List.prefix_append .., rfl⟩
  | reset => exact ⟨List.prefix_rfl, List.prefix_rfl, rfl, rfl, rfl, rfl, rfl⟩
  | settle | cmdReset | setButtons | activate | cmdLeds => exact ⟨List.prefix_rfl, List.prefix_rfl, rfl⟩
  | kbdReport | move | ptrReport | getReport | getIdle | getProtocol | setReport | setIdle | setProtocol | outputReport
  | sunLedMask | mouseRaw => exact ⟨List.prefix_append .., List.prefix_rfl, rfl⟩

theorem exec_writes {i : Instr} (h : exec i s = .next t) : AgentWrites (agentOf i) s t := by
  rcases exec_cases h with ⟨_, rfl⟩ | ⟨_, rfl⟩
  · exact effect_writes i s
  · exact .refl _ _

end Sys2Proof.Machine
end

section
/-! SUPPORT. The parts of the block's invariant: the keyboard report (R24), the deltas (R27, R29) and the transmit queue
(R245), each kept by the operations that write it and by every agent whose column does not hold it. -/

namespace Sys2Proof.Machine

variable {s t : State} {i : Instr} {a : Agent}

/-! ### The columns that do not hold a part of the invariant -/

theorem OwnColumn.keyboardInv (h : OwnColumn a s t)
    (ha : a = .pointer ∨ a = .control ∨ a = .completion ∨ a = .mapper) (hinv : KeyboardInv s) : KeyboardInv t := by
  rcases ha with rfl | rfl | rfl | rfl <;> (rw [OwnColumn] at h; rw [h]; exact hinv)

/-- The deltas are right: zero while nothing is in flight (R29), and zero in a build without them (R27). -/
def DeltaInv (s : State) : Prop :=
  PointerInv s ∧ BuildInv s

theorem OwnColumn.deltaInv (h : OwnColumn a s t) (ha : a = .decoder ∨ a = .control ∨ a = .mapper)
    (hinv : DeltaInv s) : DeltaInv t := by
  rcases ha with rfl | rfl | rfl <;> (rw [OwnColumn] at h; rw [h]; exact hinv)

theorem OwnColumn.queueInv (h : OwnColumn a s t) (ha : a = .pointer ∨ a = .mapper) (hinv : QueueInv s) :
    QueueInv t := by
  rcases ha with rfl | rfl <;> (rw [OwnColumn] at h; rw [h]; exact hinv)

/-! ### The keyboard report (R24) -/

theorem keyboardInv_of_empty (h : ∀ i : Fin 6, s.kkey[i] = 0x00) : KeyboardInv s :=
  ⟨fun i _ hi => absurd (h i) hi, fun i hi => absurd (h i) hi⟩

/-- Writing a slot keeps the invariant where the code written is 0 or is new: no modifier, and in no slot. -/
theorem KeyboardInv.setSlot (h : KeyboardInv s) (j : Fin 6) {u : Byte}
    (hnew : u ≠ 0x00 → isModifier s.cfg u = false ∧ ∀ i : Fin 6, s.kkey[i] ≠ u) :
    KeyboardInv { s with kkey := s.kkey.set j u } := by
  obtain ⟨hdistinct, hplain⟩ := h
  constructor
  · intro a b ha hab
    rw [kkey_getElem_set] at ha
    rw [kkey_getElem_set, kkey_getElem_set] at hab
    by_cases hja : j = a
    · rw [if_pos hja] at ha hab
      by_cases hjb : j = b
      · exact hja.symm.trans hjb
      · rw [if_neg hjb] at hab
        exact absurd hab.symm ((hnew ha).2 b)
    · rw [if_neg hja] at ha hab
      by_cases hjb : j = b
      · rw [if_pos hjb] at hab
        exact absurd hab ((hnew (hab ▸ ha)).2 a)
      · rw [if_neg hjb] at hab
        exact hdistinct a b ha hab
  · intro a ha
    rw [kkey_getElem_set] at ha ⊢
    by_cases hja : j = a
    · rw [if_pos hja] at ha ⊢
      exact (hnew ha).1
    · rw [if_neg hja] at ha ⊢
      exact hplain a ha

theorem press_keyboardInv (u : Byte) (h : KeyboardInv s) : KeyboardInv (press u s).2 := by
  rcases press_cases u s with ⟨hp, _⟩ | ⟨_, _, _, hp⟩ | ⟨_, hu, hnew, j, _, hp⟩ | ⟨_, _, _, _, hp⟩ <;> rw [hp]
  · exact h
  · exact h
  · exact h.setSlot j fun _ => ⟨hu, hnew⟩
  · exact h

theorem release_keyboardInv (u : Byte) (h : KeyboardInv s) : KeyboardInv (release u s).2 := by
  rcases release_cases u s with ⟨hr, _⟩ | ⟨_, _, _, hr⟩ | ⟨_, _, j, _, hr⟩ <;> rw [hr]
  · exact h
  · exact h
  · exact h.setSlot j fun hne => absurd rfl hne

theorem releaseAll_keyboardInv (h : KeyboardInv s) : KeyboardInv (releaseAll s).2 := by
  rcases releaseAll_cases s with ⟨_, hr⟩ | ⟨_, hr⟩ <;> rw [hr]
  · exact h
  · exact keyboardInv_of_empty (kkey_eq_replicate_iff.mp rfl)

/-! ### A byte of the keyboard line -/

/-- What taking a byte of the line keeps: the keyboard report's invariant and the queue; and it does not lead to `D_RESET_TX`. -/
structure ByteKeeps (s t : State) : Prop where
  keyboard : KeyboardInv s → KeyboardInv t
  ktx : t.ktx = s.ktx
  dstate : t.dstate ≠ .resetTx

theorem takeByte_keeps {b : Byte} {form : State → State} (h : ByteKeeps s (form s)) :
    ByteKeeps s (takeByte b form s) := by
  rcases takeByte_cases b form s with ⟨_, htake⟩ | ⟨_, htake⟩ <;> rw [htake]
  · exact ⟨id, rfl, by simp [Condition.errorClass]⟩
  · exact h

theorem keyTransition_byteKeeps {b : Byte} {op : Byte → State → Status × State}
    (hkeyboard : ∀ u, KeyboardInv s → KeyboardInv (op u s).2) (hktx : ∀ u, (op u s).2.ktx = s.ktx) :
    ByteKeeps s (keyTransition b op s) := by
  rcases keyTransition_cases b op s with hkey | ⟨u, hkey⟩ <;> rw [hkey]
  · exact ⟨id, rfl, by simp⟩
  · exact ⟨hkeyboard u, hktx u, by simp⟩

theorem lineByte_keeps (h : isLineByte i = true) (s : State) : ByteKeeps s (effect i s) := by
  cases i with
  | resetAck | layoutResp | selftestFail => exact takeByte_keeps ⟨id, rfl, by simp⟩
  | idle =>
    rw [effect]
    refine takeByte_keeps ?_
    exact ⟨releaseAll_keyboardInv, (releaseAll_same s).ktx, by simp⟩
  | keyDown sc =>
    exact takeByte_keeps (keyTransition_byteKeeps (fun u => press_keyboardInv u) fun u => (press_same u s).ktx)
  | keyUp sc =>
    exact takeByte_keeps (keyTransition_byteKeeps (fun u => release_keyboardInv u) fun u => (release_same u s).ktx)
  | krxOperand v =>
    rw [effect]
    refine takeByte_keeps ?_
    split
    · exact ⟨id, rfl, by simp⟩
    · exact ⟨id, rfl, by simp⟩
  | _ => cases h

/-- The line is not read while the reset command waits to leave (R143, R150). -/
theorem lineByte_dstate (h : isLineByte i = true) (he : enabled i s = true) : s.dstate ≠ .resetTx := by
  intro hd
  cases i with
  | resetAck | layoutResp | selftestFail | idle | keyDown | keyUp => simp [enabled, firstReady, hd] at he
  | krxOperand => simp [enabled, argReady, hd, DState.isArg] at he
  | _ => cases h

/-- The decoder's events keep the keyboard report's invariant. -/
theorem decoder_keyboardInv (ha : agentOf i = .decoder) (h : KeyboardInv s) : KeyboardInv (effect i s) := by
  cases i with
  | press u => exact press_keyboardInv u h
  | release u => exact release_keyboardInv u h
  | releaseAll => exact releaseAll_keyboardInv h
  | settle | krxFail | cmdReset | kbdReport => exact h
  | resetAck | layoutResp | selftestFail | idle | keyDown | keyUp | krxOperand => exact (lineByte_keeps rfl s).keyboard h
  | _ => cases ha

/-! ### The deltas (R27, R29) -/

/-- With a report in flight the deltas are free; only a build's missing ones are bound. -/
theorem transmitP_deltaInv (h : BuildInv s) : DeltaInv (transmitP s) :=
  ⟨fun hfree => by simp at hfree, h⟩

theorem zeroDeltas_buildInv (h : BuildInv s) : BuildInv (zeroDeltas s) := by
  obtain ⟨hwheel, hpan⟩ := h
  constructor
  · intro hno
    simp_all
  · intro hno
    simp_all

/-- Every delta is zero afterwards: one the build has is written, one it lacks was zero. -/
theorem zeroDeltas_zero (h : BuildInv s) :
    (zeroDeltas s).pdx = 0x00 ∧ (zeroDeltas s).pdy = 0x00 ∧ (zeroDeltas s).pwheel = 0x00 ∧ (zeroDeltas s).ppan = 0x00 := by
  obtain ⟨hwheel, hpan⟩ := h
  refine ⟨rfl, rfl, ?_, ?_⟩
  · cases hw : s.cfg.hasWheel <;> simp [hw, hwheel]
  · cases hp : s.cfg.hasPan <;> simp [hp, hpan]

theorem pointer_deltaInv (ha : agentOf i = .pointer) (h : DeltaInv s) : DeltaInv (effect i s) := by
  have hbuild : BuildInv s := h.2
  cases i with
  | move dx dy wheel pan =>
    obtain ⟨hwheel, hpan⟩ := hbuild
    exact transmitP_deltaInv ⟨fun hno => by simp_all, fun hno => by simp_all⟩
  | setButtons => exact h
  | buttonPress n | buttonRelease n =>
    simp only [effect, buttonPress, buttonRelease]
    split
    · exact transmitP_deltaInv (zeroDeltas_buildInv hbuild)
    · exact h
  | ptrReport => exact transmitP_deltaInv hbuild
  | _ => cases ha

/-- A completion frees the pointer's guard only as it zeroes the deltas (R213). -/
theorem completion_deltaInv (ha : agentOf i = .completion) (h : DeltaInv s) : DeltaInv (effect i s) := by
  cases i with
  | ktxAccept =>
    simp only [effect]
    cases hk : s.ktx with
    | nil => simpa [acceptHead, hk] using h
    | cons => rw [acceptHead_cons hk]; exact h
  | txDoneK =>
    simp only [effect]
    split
    · exact h
    · exact h
  | txDoneP =>
    simp only [effect]
    split
    · exact ⟨fun _ => zeroDeltas_zero h.2, zeroDeltas_buildInv h.2⟩
    · exact h
  | _ => cases ha

/-! ### The transmit queue (R245) -/

theorem queueInv_iff_of_resetTx (hd : s.dstate = .resetTx) :
    QueueInv s ↔ s.ktx = [resetEntry s] ∨ s.ktx = [ledEntry s, maskEntry s, resetEntry s] ∨
      s.ktx = [maskEntry s, resetEntry s] ∨ s.ktx = [resetEntry s, ledEntry s, maskEntry s] := by
  rw [QueueInv, if_pos hd]

theorem queueInv_iff_of_ne (hd : s.dstate ≠ .resetTx) :
    QueueInv s ↔ s.ktx = [] ∨ s.ktx = [ledEntry s, maskEntry s] ∨ s.ktx = [maskEntry s] := by
  rw [QueueInv, if_neg hd]

/-- The queue's form depends on the decoder only by whether the reset command waits in it. -/
theorem QueueInv.of_same (h : QueueInv s) (hd : t.dstate = .resetTx ↔ s.dstate = .resetTx) (hktx : t.ktx = s.ktx)
    (holed : t.oled = s.oled) (hcfg : t.cfg = s.cfg) : QueueInv t := by
  simpa only [QueueInv, resetEntry, ledEntry, maskEntry, hd, hktx, holed, hcfg] using h

theorem SameOutsideKeyboard.queueInv (h : SameOutsideKeyboard t s) (hinv : QueueInv s) : QueueInv t :=
  hinv.of_same (by rw [h.dstate]) h.ktx h.oled h.cfg

/-- The reset command goes to the end of the queue, behind an LED command whole or half sent (R297). -/
theorem sendReset_queueInv (hd : s.dstate = .settle) (h : QueueInv s) : QueueInv (sendReset s) := by
  have hpush : (sendReset s).ktx = s.ktx ++ [resetEntry s] := rfl
  rw [queueInv_iff_of_resetTx rfl, hpush]
  rcases (queueInv_iff_of_ne (by simp [hd])).mp h with hq | hq | hq <;> rw [hq]
  · exact .inl rfl
  · exact .inr (.inl rfl)
  · exact .inr (.inr (.inl rfl))

/-- With the control context idle the queue holds the reset command alone, while it waits, and nothing otherwise (R248). -/
theorem queueInv_iff_of_ctlIdle (hidle : ctlBusy s = false) :
    QueueInv s ↔ s.ktx = if s.dstate = .resetTx then [resetEntry s] else [] := by
  rw [ctlBusy_eq_false_iff] at hidle
  by_cases hd : s.dstate = .resetTx
  · rw [queueInv_iff_of_resetTx hd, if_pos hd]
    refine ⟨?_, .inl⟩
    rintro (hq | hq | hq | hq)
    · exact hq
    all_goals simp [hq, ledEntry, maskEntry] at hidle
  · rw [queueInv_iff_of_ne hd, if_neg hd]
    refine ⟨?_, .inl⟩
    rintro (hq | hq | hq)
    · exact hq
    all_goals simp [hq, ledEntry, maskEntry] at hidle

theorem ledForward_queueInv (hidle : ctlBusy s = false) (h : QueueInv s) : QueueInv (ledForward s) := by
  have hpush : (ledForward s).ktx = s.ktx ++ [ledEntry s, maskEntry s] := rfl
  have hq := (queueInv_iff_of_ctlIdle hidle).mp h
  by_cases hd : s.dstate = .resetTx
  · rw [if_pos hd] at hq
    rw [queueInv_iff_of_resetTx (s := ledForward s) hd, hpush, hq]
    exact .inr (.inr (.inr rfl))
  · rw [if_neg hd] at hq
    rw [queueInv_iff_of_ne (s := ledForward s) hd, hpush, hq]
    exact .inr (.inl rfl)

/-- The stored report changes only while no byte of an LED command waits, so no mask in the queue is left behind. -/
theorem acceptOutputReport_queueInv (data : Byte) (hidle : ctlBusy s = false) (h : QueueInv s) :
    QueueInv (acceptOutputReport data s) := by
  have hstored : QueueInv { s with oled := data } :=
    (queueInv_iff_of_ctlIdle (s := { s with oled := data }) hidle).mpr ((queueInv_iff_of_ctlIdle hidle).mp h)
  exact ledForward_queueInv (s := { s with oled := data }) hidle hstored

/-- The head leaves: the reset command's leaving opens the read loop, any other leaves the decoder where it is (R142, R247). -/
theorem acceptHead_queueInv (h : QueueInv s) : QueueInv (acceptHead s) := by
  by_cases hd : s.dstate = .resetTx
  · rcases (queueInv_iff_of_resetTx hd).mp h with hq | hq | hq | hq <;> rw [acceptHead_cons hq]
    · exact (queueInv_iff_of_ne (by simp [resetEntry])).mpr (.inl rfl)
    · exact (queueInv_iff_of_resetTx (by simp [ledEntry, hd])).mpr (.inr (.inr (.inl rfl)))
    · exact (queueInv_iff_of_resetTx (by simp [maskEntry, hd])).mpr (.inl rfl)
    · exact (queueInv_iff_of_ne (by simp [resetEntry])).mpr (.inr (.inl rfl))
  · rcases (queueInv_iff_of_ne hd).mp h with hq | hq | hq
    · simpa [acceptHead, hq] using h
    · rw [acceptHead_cons hq]
      exact (queueInv_iff_of_ne (by simp [ledEntry, hd])).mpr (.inr (.inr rfl))
    · rw [acceptHead_cons hq]
      exact (queueInv_iff_of_ne (by simp [maskEntry, hd])).mpr (.inl rfl)

theorem agentOf_lineByte (hbyte : isLineByte i = true) : agentOf i = .decoder := by
  cases i with
  | resetAck | layoutResp | selftestFail | idle | keyDown | keyUp | krxOperand => rfl
  | _ => cases hbyte

theorem lineByte_queueInv (hbyte : isLineByte i = true) (he : enabled i s = true) (h : QueueInv s) :
    QueueInv (effect i s) := by
  have hkeeps := lineByte_keeps hbyte s
  have hcolumn := (effect_writes i s).column
  rw [agentOf_lineByte hbyte, OwnColumn] at hcolumn
  have holed : (effect i s).oled = s.oled := by rw [hcolumn]
  have hdstate : (effect i s).dstate = .resetTx ↔ s.dstate = .resetTx :=
    iff_of_false hkeeps.dstate (lineByte_dstate hbyte he)
  exact h.of_same hdstate hkeeps.ktx holed (effect_keeps i s).cfg

theorem decoder_queueInv (ha : agentOf i = .decoder) (he : enabled i s = true) (h : QueueInv s) :
    QueueInv (effect i s) := by
  cases i with
  | settle | cmdReset => exact sendReset_queueInv (by simpa [enabled] using he) h
  | press u => exact (press_same u s).queueInv h
  | release u => exact (release_same u s).queueInv h
  | releaseAll => exact (releaseAll_same s).queueInv h
  | kbdReport => exact h
  | krxFail =>
    have hd : s.dstate ≠ .resetTx := fun hd => by simp [enabled, krxReady, hd, DState.reads, DState.isArg] at he
    exact h.of_same (by simp [effect, Condition.errorClass, hd]) rfl rfl rfl
  | resetAck | layoutResp | selftestFail | idle | keyDown | keyUp | krxOperand => exact lineByte_queueInv rfl he h
  | _ => cases ha

theorem control_queueInv (ha : agentOf i = .control) (he : enabled i s = true) (h : QueueInv s) :
    QueueInv (effect i s) := by
  cases i with
  | setReport data | outputReport data => exact acceptOutputReport_queueInv data (by simpa [enabled] using he) h
  | cmdLeds m =>
    obtain ⟨hidle, hmask⟩ : ctlBusy s = false ∧ m.setWidth 8 = hid2sunLeds s.oled := by simpa [enabled] using he
    have hforward : effect (.cmdLeds m) s = ledForward s := by simp [effect, ledForward, hmask]
    rw [hforward]
    exact ledForward_queueInv hidle h
  | getReport | getIdle | getProtocol | setIdle | setProtocol | reject | activate | sunLedMask => exact h
  | _ => cases ha

theorem completion_queueInv (ha : agentOf i = .completion) (h : QueueInv s) : QueueInv (effect i s) := by
  cases i with
  | ktxAccept => exact acceptHead_queueInv h
  | txDoneK | txDoneP =>
    simp only [effect]
    split
    · exact h
    · exact h
  | _ => cases ha

end Sys2Proof.Machine
end

section
/-! THE STATEMENTS OF 10_state.md: the access table (R40), the state after reset (R39), and the invariant of the block. -/

namespace Sys2Proof.Machine

variable {s t : State} {i : Instr}

/-- Settles O59, from the column of the agent whose event it is. -/
theorem agentsWriteOnlyTheirOwnState : Obligations.AgentsWriteOnlyTheirOwnState := by
  intro i s t hexec
  obtain ⟨⟨emitted, houts⟩, ⟨conditions, hraised⟩, hcolumn⟩ := exec_writes hexec
  refine ⟨⟨emitted, houts.symm⟩, ⟨conditions, hraised.symm⟩, ?_⟩
  refine ⟨?_, ?_, ?_, ?_, ?_, ?_⟩ <;>
    · intro hagent
      rw [hagent] at hcolumn
      exact hcolumn

/-! ### The invariant -/

theorem eq_reset_of_agentOf (ha : agentOf i = .reset) : i = .reset := by
  cases i with
  | reset => rfl
  | _ => cases ha

/-- RESET establishes the invariant in every state of a legal configuration (R290). -/
theorem reset_blockInv (hcfg : configOk s.cfg = true) : BlockInv (effect .reset s) :=
  ⟨hcfg, keyboardInv_of_empty (kkey_eq_replicate_iff.mp rfl), fun _ => ⟨rfl, rfl, rfl, rfl⟩, ⟨fun _ => rfl, fun _ => rfl⟩,
    .inl rfl⟩

/-- Every event keeps the invariant: each part of it is shown of the agents whose column holds it (R40), and the other agents
leave it alone. -/
theorem effect_blockInv (he : enabled i s = true) (h : BlockInv s) : BlockInv (effect i s) := by
  obtain ⟨hcfg, hkeyboard, hpointer, hbuild, hqueue⟩ := h
  have hdelta : DeltaInv s := ⟨hpointer, hbuild⟩
  have hcfg' : configOk (effect i s).cfg = true := by rw [(effect_keeps i s).cfg, hcfg]
  have hcolumn := (effect_writes i s).column
  suffices hparts : KeyboardInv (effect i s) ∧ DeltaInv (effect i s) ∧ QueueInv (effect i s) by
    obtain ⟨hkeyboard', ⟨hpointer', hbuild'⟩, hqueue'⟩ := hparts
    exact ⟨hcfg', hkeyboard', hpointer', hbuild', hqueue'⟩
  cases ha : agentOf i <;> rw [ha] at hcolumn
  case decoder =>
    exact ⟨decoder_keyboardInv ha hkeyboard, hcolumn.deltaInv (by decide) hdelta, decoder_queueInv ha he hqueue⟩
  case pointer =>
    exact ⟨hcolumn.keyboardInv (by decide) hkeyboard, pointer_deltaInv ha hdelta, hcolumn.queueInv (by decide) hqueue⟩
  case control =>
    exact ⟨hcolumn.keyboardInv (by decide) hkeyboard, hcolumn.deltaInv (by decide) hdelta, control_queueInv ha he hqueue⟩
  case completion =>
    exact ⟨hcolumn.keyboardInv (by decide) hkeyboard, completion_deltaInv ha hdelta, completion_queueInv ha hqueue⟩
  case mapper =>
    exact ⟨hcolumn.keyboardInv (by decide) hkeyboard, hcolumn.deltaInv (by decide) hdelta,
      hcolumn.queueInv (by decide) hqueue⟩
  case reset =>
    obtain rfl := eq_reset_of_agentOf ha
    obtain ⟨_, hkeyboard', hpointer', hbuild', hqueue'⟩ := reset_blockInv hcfg
    exact ⟨hkeyboard', ⟨hpointer', hbuild'⟩, hqueue'⟩

theorem exec_blockInv (hexec : exec i s = .next t) (h : BlockInv s) : BlockInv t := by
  rcases exec_cases hexec with ⟨he, rfl⟩ | ⟨_, rfl⟩
  · exact effect_blockInv he h
  · exact h

/-- Settles O3: a step changes nothing or runs one event, and taking the event from where it is offered touches nothing the
invariant speaks of. -/
theorem stepKeepsTheInvariant : Obligations.StepKeepsTheInvariant := by
  intro s t hinv hstep
  rcases step_cases hstep with ⟨_, _, rfl⟩ | ⟨_, f, rest, i, _, _, hexec⟩ | ⟨f, i, _, _, hexec⟩
  · exact hinv
  · exact exec_blockInv (s := { s with pending := rest }) hexec hinv
  · exact exec_blockInv (s := { s with probe := none }) hexec hinv

theorem configOk_default : configOk Config.default = true := by decide

/-- Settles O2: the machine after reset is what RESET makes of it, and the default configuration is legal. -/
theorem resetStateMeetsTheInvariant : Obligations.ResetStateMeetsTheInvariant := by
  have hinv : BlockInv State.reset := reset_blockInv (s := State.reset) configOk_default
  have hkeys : ∀ i : Fin 6, State.reset.kkey[i] = 0x00 := kkey_eq_replicate_iff.mp rfl
  exact ⟨hinv, rfl, hkeys, rfl, rfl, rfl, rfl, rfl, rfl, rfl, rfl, rfl, rfl, rfl⟩

end Sys2Proof.Machine
end

section
/-! SUPPORT. The lengths of the reports (R62); the ROM exchanged for another that agrees with it on the live entries (R61, R70),
and that every event goes the same way on both; the outcome of a key transition (R148, R149). -/

namespace Sys2Proof.Machine

variable {s : State} {rom : Memory}

/-! ### The lengths of the reports (R62) -/

theorem keyboardReport_length (s : State) : (keyboardReport s).length = 8 := by
  simp [keyboardReport]

theorem ptrBytes_length (c : Config) (btn : BitVec 3) (dx dy wheel pan : Byte) :
    (ptrBytes c btn dx dy wheel pan).length = c.ptrUsed := by
  cases hw : c.hasWheel <;> cases hp : c.hasPan <;> simp [ptrBytes, Config.ptrUsed, hw, hp]

theorem configOk_ptrLen {c : Config} (h : configOk c = true) : c.ptrUsed ≤ c.ptrLen ∧ c.ptrLen ≤ 8 := by
  simp only [configOk, Bool.and_eq_true, decide_eq_true_eq] at h
  tauto

/-- A pointer report has `PTR_LEN` bytes: the padding fills up what the build leaves (R28). -/
theorem pointerReport_length (h : configOk s.cfg = true) : (pointerReport s).length = s.cfg.ptrLen := by
  obtain ⟨hused, _⟩ := configOk_ptrLen h
  rw [pointerReport, List.length_append, ptrBytes_length, List.length_replicate, Nat.add_sub_cancel' hused]

/-- No report is longer than a bus of 64 bits. -/
theorem reportOf_length_le (e : Endpoint) (h : configOk s.cfg = true) : (reportOf e s).length ≤ 8 := by
  cases e with
  | k => exact (keyboardReport_length s).le
  | p => exact (pointerReport_length h).trans_le (configOk_ptrLen h).2

/-! ### Another ROM (R61) -/

/-- The block with another ROM and all else the same. -/
def State.withRom (rom : Memory) (s : State) : State :=
  { s with cfg := { s.cfg with scanrom := rom } }

@[simp] theorem State.withRom_kmod : (s.withRom rom).kmod = s.kmod := rfl
@[simp] theorem State.withRom_kkey : (s.withRom rom).kkey = s.kkey := rfl
@[simp] theorem State.withRom_inflight : (s.withRom rom).inflight = s.inflight := rfl
@[simp] theorem State.withRom_dstate : (s.withRom rom).dstate = s.dstate := rfl
@[simp] theorem State.withRom_ktx : (s.withRom rom).ktx = s.ktx := rfl
@[simp] theorem isModifier_withRom (u : Byte) : isModifier (s.withRom rom).cfg u = isModifier s.cfg u := rfl
@[simp] theorem modBit_withRom (u : Byte) : modBit (s.withRom rom).cfg u = modBit s.cfg u := rfl
@[simp] theorem allReleased_withRom : allReleased (s.withRom rom) = allReleased s := rfl
@[simp] theorem unexpected_withRom (d : DState) (b : Byte) :
    unexpected (s.withRom rom).cfg d b = unexpected s.cfg d b := rfl

/-- No enabling condition looks at the ROM. -/
@[simp] theorem enabled_withRom (i : Instr) : enabled i (s.withRom rom) = enabled i s := by
  cases i <;> rfl

/-- A scancode's entry is dead when the low seven bits of a marker are the scancode; the markers in the order of R5. -/
theorem deadEntry_iff_marker {c : Config} {sc : BitVec 7} :
    deadEntry c sc = true ↔
      ∃ m ∈ [c.mIdle, c.mResetAck, c.mLayout, c.mSelftestFail], m.extractLsb' 0 7 = sc := by
  simp only [deadEntry_iff, List.mem_cons, List.not_mem_nil, or_false, exists_eq_or_imp, exists_eq_left]
  tauto

/-- `rom` reads as the ROM of `c` wherever an entry is live (R70). -/
def LiveEntriesAgree (rom : Memory) (c : Config) : Prop :=
  ∀ sc : BitVec 7, deadEntry c sc = false → Memory.read rom sc.toNat = Memory.read c.scanrom sc.toNat

/-- The code of a key transition depends on the live entries only. -/
theorem usageOf_withRom (h : LiveEntriesAgree rom s.cfg) (sc : BitVec 7) :
    usageOf (s.withRom rom).cfg sc = usageOf s.cfg sc := by
  have hsame : deadEntry (s.withRom rom).cfg sc = deadEntry s.cfg sc := rfl
  cases hd : deadEntry s.cfg sc with
  | true => rw [usageOf_dead hd, usageOf_dead (hsame.trans hd)]
  | false => rw [usageOf_live hd, usageOf_live (hsame.trans hd)]; exact h sc hd

/-! ### Events on another ROM -/

theorem press_withRom (u : Byte) (s : State) : (press u (s.withRom rom)).2 = (press u s).2.withRom rom := by
  simp only [press]
  rw [isModifier_withRom, modBit_withRom, State.withRom_kmod, State.withRom_kkey]
  split_ifs
  · rfl
  · rfl
  · rfl
  · cases slotOf s.kkey u with
    | some => rfl
    | none => cases slotOf s.kkey 0x00 <;> rfl

theorem release_withRom (u : Byte) (s : State) : (release u (s.withRom rom)).2 = (release u s).2.withRom rom := by
  simp only [release]
  rw [isModifier_withRom, modBit_withRom, State.withRom_kmod, State.withRom_kkey]
  split_ifs
  · rfl
  · rfl
  · rfl
  · cases slotOf s.kkey u <;> rfl

theorem releaseAll_withRom (s : State) : (releaseAll (s.withRom rom)).2 = (releaseAll s).2.withRom rom := by
  simp only [releaseAll]
  rw [allReleased_withRom]
  split_ifs <;> rfl

theorem goto_withRom (d : DState) (s : State) : goto d (s.withRom rom) = (goto d s).withRom rom := rfl

theorem raiseCond_withRom (x : Condition) (s : State) : raiseCond x (s.withRom rom) = (raiseCond x s).withRom rom := rfl

/-- A byte is taken the same way where its form's effect is. -/
theorem takeByte_withRom {b : Byte} {form : State → State} (h : form (s.withRom rom) = (form s).withRom rom) :
    takeByte b form (s.withRom rom) = (takeByte b form s).withRom rom := by
  simp only [takeByte]
  rw [unexpected_withRom, State.withRom_dstate]
  split_ifs
  · exact raiseCond_withRom _ s
  · exact h

/-- A key transition reads the ROM for its code alone. -/
theorem keyTransition_withRom (hrom : LiveEntriesAgree rom s.cfg) {b : Byte} {op : Byte → State → Status × State}
    (h : ∀ u, (op u (s.withRom rom)).2 = (op u s).2.withRom rom) :
    keyTransition b op (s.withRom rom) = (keyTransition b op s).withRom rom := by
  simp only [keyTransition]
  rw [usageOf_withRom hrom]
  split_ifs
  · rfl
  · rw [h, goto_withRom]

theorem acceptHead_withRom (s : State) : acceptHead (s.withRom rom) = (acceptHead s).withRom rom := by
  simp only [acceptHead, State.withRom_ktx]
  cases s.ktx <;> rfl

/-- Every event has the same effect on two ROMs that agree on the live entries. -/
theorem effect_withRom (hrom : LiveEntriesAgree rom s.cfg) (i : Instr) :
    effect i (s.withRom rom) = (effect i s).withRom rom := by
  cases i with
  | resetAck | layoutResp | selftestFail => exact takeByte_withRom rfl
  | idle =>
    simp only [effect]
    refine takeByte_withRom ?_
    rw [releaseAll_withRom, goto_withRom]
  | keyDown => exact takeByte_withRom (keyTransition_withRom hrom fun u => press_withRom u s)
  | keyUp => exact takeByte_withRom (keyTransition_withRom hrom fun u => release_withRom u s)
  | krxOperand =>
    simp only [effect]
    refine takeByte_withRom ?_
    rw [State.withRom_dstate]
    split_ifs <;> rfl
  | press u => exact press_withRom u s
  | release u => exact release_withRom u s
  | releaseAll => exact releaseAll_withRom s
  | buttonPress | buttonRelease =>
    simp only [effect, buttonPress, buttonRelease]
    split_ifs <;> rfl
  | ktxAccept => exact acceptHead_withRom s
  | txDoneK | txDoneP =>
    simp only [effect]
    rw [State.withRom_inflight]
    split_ifs <;> rfl
  | _ => rfl

theorem exec_withRom {t : State} {i : Instr} (hrom : LiveEntriesAgree rom s.cfg) (h : exec i s = .next t) :
    exec i (s.withRom rom) = .next (t.withRom rom) := by
  rcases exec_cases h with ⟨he, rfl⟩ | ⟨he, rfl⟩
  · rw [exec_of_enabled ((enabled_withRom i).trans he), effect_withRom hrom]
  · exact exec_disabled ((enabled_withRom i).trans he)

/-! ### The ROM along a step -/

/-- A step keeps the configuration, and the ROM in it. -/
theorem step_cfg {t : State} (h : step s = .next t) : t.cfg = s.cfg := by
  rcases step_cases h with ⟨_, _, rfl⟩ | ⟨_, f, rest, i, _, _, hexec⟩ | ⟨f, i, _, _, hexec⟩
  · rfl
  · exact (exec_keeps hexec).cfg
  · exact (exec_keeps hexec).cfg

/-! ### The outcome of a key transition (R148, R149) -/

theorem goto_of_dstate {d : DState} (h : s.dstate = d) : goto d s = s := by
  subst h; rfl

theorem unexpected_eq_false_iff {c : Config} {d : DState} {b : Byte} :
    unexpected c d b = false ↔ (d, b) ∉ c.unexpected := by
  simp [unexpected]

/-- Taking an expected key transition in `D_FIRST`: the condition, where its code is 0x00, or the operation on its code. -/
theorem takeByte_keyTransition {up : BitVec 1} {sc : BitVec 7} {op : Byte → State → Status × State}
    (hd : s.dstate = .first) (hexpected : (DState.first, up ++ sc) ∉ s.cfg.unexpected)
    (hop : ∀ u, (op u s).2.dstate = s.dstate) :
    takeByte (up ++ sc) (keyTransition (up ++ sc) op) s =
      if usageOf s.cfg sc = 0x00 then { s with raised := s.raised ++ [.unmappedScancode (up ++ sc)] }
      else (op (usageOf s.cfg sc) s).2 := by
  have hnot : unexpected s.cfg s.dstate (up ++ sc) = false := by rwa [hd, unexpected_eq_false_iff]
  have hsc : (up ++ sc).extractLsb' 0 7 = sc := by
    rw [extract_append_low up sc 0 7 (by decide), extract_all]
  rw [takeByte, if_neg (by simp [hnot]), keyTransition, hsc]
  split
  · exact goto_of_dstate hd
  · exact goto_of_dstate ((hop _).trans hd)

/-- The outcome of a key transition `i` of any scancode, live or dead, by its code: the condition, or what the operation word
`word u` does. -/
theorem exec_keyTransition {up : BitVec 1} {sc : BitVec 7} {op : Byte → State → Status × State} {i : Instr}
    {word : Byte → Instr} (hd : s.dstate = .first) (hexpected : (DState.first, up ++ sc) ∉ s.cfg.unexpected)
    (hi : exec i s = .next (takeByte (up ++ sc) (keyTransition (up ++ sc) op) s))
    (hword : ∀ u, exec (word u) s = .next (op u s).2) (hop : ∀ u, (op u s).2.dstate = s.dstate) :
    (usageOf s.cfg sc = 0x00 → exec i s = .next { s with raised := s.raised ++ [.unmappedScancode (up ++ sc)] }) ∧
    (usageOf s.cfg sc ≠ 0x00 →
      ∃ t, exec i s = .next t ∧ exec (word (usageOf s.cfg sc)) s = .next t ∧ t.dstate = .first) := by
  rw [hi, takeByte_keyTransition hd hexpected hop]
  refine ⟨fun hu => by rw [if_pos hu], fun hu => ⟨_, by rw [if_neg hu], hword _, (hop _).trans hd⟩⟩

theorem exec_keyDown {sc : BitVec 7} (hd : s.dstate = .first) (hk : s.inflight.k = false)
    (hexpected : (DState.first, 0#1 ++ sc) ∉ s.cfg.unexpected) :
    (usageOf s.cfg sc = 0x00 →
      exec (.keyDown sc) s = .next { s with raised := s.raised ++ [.unmappedScancode (0#1 ++ sc)] }) ∧
    (usageOf s.cfg sc ≠ 0x00 →
      ∃ t, exec (.keyDown sc) s = .next t ∧ exec (.press (usageOf s.cfg sc)) s = .next t ∧ t.dstate = .first) :=
  have hready : firstReady s = true := firstReady_iff.mpr ⟨hd, hk⟩
  exec_keyTransition hd hexpected (exec_of_enabled (i := .keyDown sc) hready)
    (fun u => exec_of_enabled (i := .press u) hready) fun u => (press_same u s).dstate

theorem exec_keyUp {sc : BitVec 7} (hd : s.dstate = .first) (hk : s.inflight.k = false)
    (hexpected : (DState.first, 1#1 ++ sc) ∉ s.cfg.unexpected) :
    (usageOf s.cfg sc = 0x00 →
      exec (.keyUp sc) s = .next { s with raised := s.raised ++ [.unmappedScancode (1#1 ++ sc)] }) ∧
    (usageOf s.cfg sc ≠ 0x00 →
      ∃ t, exec (.keyUp sc) s = .next t ∧ exec (.release (usageOf s.cfg sc)) s = .next t ∧ t.dstate = .first) :=
  have hready : firstReady s = true := firstReady_iff.mpr ⟨hd, hk⟩
  exec_keyTransition hd hexpected (exec_of_enabled (i := .keyUp sc) hready)
    (fun u => exec_of_enabled (i := .release u) hready) fun u => (release_same u s).dstate

end Sys2Proof.Machine
end

section
/-! THE STATEMENTS OF 20_memory.md: the bytes of a report on their lanes (R63), and the ROM (R61, R70, R75). -/

namespace Sys2Proof.Machine

/-- Settles O9: every bus packs its report's bytes, and no report is longer than the bus. -/
theorem reportBytesOnTheirLanes : Obligations.ReportBytesOnTheirLanes := by
  intro s i hcfg
  have hlanes : ∀ e, ∀ h : i < (reportOf e s).length, laneByte (packLanes (reportOf e s)) i = (reportOf e s)[i] :=
    fun e h => laneByte_packLanes _ (reportOf_length_le e hcfg) i h
  exact ⟨hlanes .k, hlanes .p, hlanes⟩

/-- Settles O15: a step keeps the configuration; every event has the same effect on two ROMs that agree on the live entries; and
the code of a dead scancode is the open value of log 26. -/
theorem noStepWritesTheRomOrReadsADeadEntry : Obligations.NoStepWritesTheRomOrReadsADeadEntry := by
  refine ⟨?notWritten, ?deadNotRead, ?deadCode⟩
  case notWritten =>
    intro s t hstep a
    rw [step_cfg hstep]
  case deadNotRead =>
    intro i s t rom hagree hexec
    have hrom : LiveEntriesAgree rom s.cfg := fun sc hlive => hagree sc fun m hm hsc =>
      absurd (deadEntry_iff_marker.mpr ⟨m, hm, hsc⟩) (by simp [hlive])
    exact exec_withRom hrom hexec
  case deadCode =>
    intro s sc hd hk hmarker
    have hdead : usageOf s.cfg sc = Config.deadUsage sc.toNat := usageOf_dead (deadEntry_iff_marker.mpr hmarker)
    refine ⟨Config.deadUsage sc.toNat, ?_⟩
    rw [← hdead]
    exact ⟨exec_keyDown hd hk, exec_keyUp hd hk⟩

end Sys2Proof.Machine
end

section
/-! SUPPORT. The decoder read against the encoder: what a legal configuration keeps apart (R5), the first byte of a form (R82),
the fields of the words of R91 to R99, and the selection of a class request (R94). -/

namespace Sys2Proof.Machine

variable {c : Config} {d : DState} {s : State}

/-! ### What a legal configuration keeps apart (R5) -/

theorem distinct_iff_nodup {bs : List Byte} : distinct bs = true ↔ bs.Nodup := by
  induction bs with
  | nil => simp [distinct]
  | cons b bs ih => simp [distinct, ih]

/-- The markers differ, each from those R82 tests before it. -/
theorem configOk_markers (h : configOk c = true) :
    c.mLayout ≠ c.mResetAck ∧ (c.mSelftestFail ≠ c.mResetAck ∧ c.mSelftestFail ≠ c.mLayout) ∧
      c.mIdle ≠ c.mResetAck ∧ c.mIdle ≠ c.mLayout ∧ c.mIdle ≠ c.mSelftestFail := by
  simp only [configOk, Bool.and_eq_true] at h
  have hnodup : [c.mIdle, c.mResetAck, c.mLayout, c.mSelftestFail].Nodup := distinct_iff_nodup.mp (by simp only [h])
  simp only [List.nodup_cons, List.mem_cons, not_or] at hnodup
  grind

/-- The request codes differ, each from those R94 tests before it. -/
theorem configOk_requests (h : configOk c = true) :
    c.reqGetIdle ≠ c.reqGetReport ∧ (c.reqGetProtocol ≠ c.reqGetReport ∧ c.reqGetProtocol ≠ c.reqGetIdle) ∧
      (c.reqSetReport ≠ c.reqGetReport ∧ c.reqSetReport ≠ c.reqGetIdle ∧ c.reqSetReport ≠ c.reqGetProtocol) ∧
      (c.reqSetIdle ≠ c.reqGetReport ∧ c.reqSetIdle ≠ c.reqGetIdle ∧ c.reqSetIdle ≠ c.reqGetProtocol ∧
        c.reqSetIdle ≠ c.reqSetReport) ∧
      c.reqSetProtocol ≠ c.reqGetReport ∧ c.reqSetProtocol ≠ c.reqGetIdle ∧ c.reqSetProtocol ≠ c.reqGetProtocol ∧
        c.reqSetProtocol ≠ c.reqSetReport ∧ c.reqSetProtocol ≠ c.reqSetIdle := by
  simp only [configOk, Bool.and_eq_true] at h
  have hnodup : [c.reqGetReport, c.reqGetIdle, c.reqGetProtocol, c.reqSetReport, c.reqSetIdle,
      c.reqSetProtocol].Nodup := distinct_iff_nodup.mp (by simp only [h])
  simp only [List.nodup_cons, List.mem_cons, not_or] at hnodup
  grind

theorem configOk_interfaces (h : configOk c = true) : c.ifPtr ≠ c.ifKbd := by
  simp only [configOk, Bool.and_eq_true, bne_iff_ne] at h
  exact fun hsame => by simp [hsame] at h

/-! ### The first byte of a form (R82) -/

theorem isMarker_eq_false_iff {b : Byte} :
    c.isMarker b = false ↔ b ≠ c.mResetAck ∧ b ≠ c.mLayout ∧ b ≠ c.mSelftestFail ∧ b ≠ c.mIdle := by
  simp [Config.isMarker, and_assoc]

theorem classify_mResetAck (c : Config) : classify c c.mResetAck = .resetAck := by
  simp [classify]

theorem classify_mLayout (hreset : c.mLayout ≠ c.mResetAck) : classify c c.mLayout = .layoutResp := by
  simp [classify, hreset]

theorem classify_mSelftestFail (hreset : c.mSelftestFail ≠ c.mResetAck) (hlayout : c.mSelftestFail ≠ c.mLayout) :
    classify c c.mSelftestFail = .selftestFail := by
  simp [classify, hreset, hlayout]

theorem classify_mIdle (hreset : c.mIdle ≠ c.mResetAck) (hlayout : c.mIdle ≠ c.mLayout)
    (hfail : c.mIdle ≠ c.mSelftestFail) : classify c c.mIdle = .idle := by
  simp [classify, hreset, hlayout, hfail]

/-- A byte that is no marker is a key transition, and its bit 7 tells which (R87, R88). -/
theorem classify_of_not_marker {b : Byte} (h : c.isMarker b = false) :
    classify c b = if b.getLsbD 7 then .keyUp (b.extractLsb' 0 7) else .keyDown (b.extractLsb' 0 7) := by
  obtain ⟨hreset, hlayout, hfail, hidle⟩ := isMarker_eq_false_iff.mp h
  simp [classify, hreset, hlayout, hfail, hidle]

theorem getLsbD_seven_append (up : BitVec 1) (sc : BitVec 7) : (up ++ sc : Byte).getLsbD 7 = up.getLsbD 0 :=
  BitVec.getLsbD_append

theorem extract_scancode (up : BitVec 1) (sc : BitVec 7) : (up ++ sc : Byte).extractLsb' 0 7 = sc :=
  (extract_append_low up sc 0 7 (by decide)).trans (extract_all sc)

/-- A byte is its bit 7 before its scancode. -/
theorem bit_append_scancode (b : Byte) : (BitVec.ofBool (b.getLsbD 7) ++ b.extractLsb' 0 7 : Byte) = b := by
  apply BitVec.eq_of_getLsbD_eq
  intro i hi
  rw [BitVec.getLsbD_append, BitVec.getLsbD_extractLsb']
  by_cases h : i < 7
  · simp [h]
  · obtain rfl : i = 7 := by omega
    simp

/-- The form read from a first byte stands for that byte. -/
theorem krxByte_classify (c : Config) (b : Byte) : krxByte c (classify c b) = b := by
  have hbyte := bit_append_scancode b
  unfold classify
  split_ifs with hreset hlayout hfail hidle hup
  · exact hreset.symm
  · exact hlayout.symm
  · exact hfail.symm
  · exact hidle.symm
  · rwa [hup] at hbyte
  · rwa [Bool.eq_false_iff.mpr hup] at hbyte

theorem isLineByte_classify (c : Config) (b : Byte) : isLineByte (classify c b) = true := by
  unfold classify
  repeat' split
  all_goals rfl

/-- A byte of the keyboard line, in a decoder state that reads it so, decodes to the form it was written for. -/
theorem decodeKrx_krxByte {i : Instr} (hcfg : configOk c = true) (hline : isLineByte i = true) (hwf : i.wf c = true)
    (hcontext : i.inContext d = true) : decodeKrx c d (krxByte c i) = i := by
  have hfirst (h : d.isArg = false) : decodeKrx c d (krxByte c i) = classify c (krxByte c i) := by simp [decodeKrx, h]
  cases i with
  | resetAck | layoutResp | selftestFail | idle =>
    rw [hfirst (by simpa [Instr.inContext] using hcontext)]
    simp [krxByte, classify, configOk_markers hcfg]
  | keyDown sc | keyUp sc =>
    rw [hfirst (by simpa [Instr.inContext] using hcontext), krxByte,
      classify_of_not_marker (by simpa [Instr.wf] using hwf), getLsbD_seven_append, extract_scancode]
    rfl
  | krxOperand v =>
    simp only [Instr.inContext] at hcontext
    simp [decodeKrx, hcontext, krxByte]
  | _ => cases hline

/-- An unexpected byte halts the decoder, whichever form it stands for (R151). -/
theorem effect_of_unexpected {i : Instr} (hline : isLineByte i = true)
    (h : unexpected s.cfg s.dstate (krxByte s.cfg i) = true) :
    effect i s = raiseCond (.transportUnexpected (krxByte s.cfg i)) s := by
  cases i with
  | resetAck | layoutResp | selftestFail | idle | keyDown | keyUp | krxOperand => exact if_pos h
  | _ => cases hline

/-! ### Fields of the words of operations, requests and commands (R91 to R93, R96) -/

theorem decodeKop_word (code : BitVec 2) (u : Byte) :
    decodeKop (code ++ u) =
      if code = 0 then .ok (.press u) else if code = 1 then .ok (.release u)
      else if code = 2 then .ok .releaseAll else .error .kopCode11 := by
  simp only [decodeKop]
  rw [extract_append_high (m := 8), extract_append_low (m := 8) code u 0 8 (by decide), extract_all]

theorem decodePop_word (op : BitVec 2) (a : Byte) (low : BitVec 24) :
    decodePop (op ++ (a ++ low)) =
      if op = 0 then .move a (low.extractLsb' 16 8) (low.extractLsb' 8 8) (low.extractLsb' 0 8)
      else if op = 1 then .setButtons (a.extractLsb' 0 3)
      else if op = 2 then .buttonPress a else .buttonRelease a := by
  simp only [decodePop]
  rw [extract_append_high (m := 32), extract_append_low (m := 32) op _ 24 8 (by decide),
    extract_append_high (m := 24), extract_append_low (m := 32) op _ 16 8 (by decide),
    extract_append_low (m := 24) a low 16 8 (by decide), extract_append_low (m := 32) op _ 8 8 (by decide),
    extract_append_low (m := 24) a low 8 8 (by decide), extract_append_low (m := 32) op _ 0 8 (by decide),
    extract_append_low (m := 24) a low 0 8 (by decide)]

theorem decodePop_move (dx dy wheel pan : Byte) :
    decodePop (0#2 ++ (dx ++ (dy ++ (wheel ++ pan)))) = .move dx dy wheel pan := by
  rw [decodePop_word 0#2 dx (dy ++ (wheel ++ pan)), if_pos (by decide), extract_append_high (m := 16),
    extract_append_low (m := 16) dy _ 8 8 (by decide), extract_append_high (m := 8),
    extract_append_low (m := 16) dy _ 0 8 (by decide), extract_append_low (m := 8) wheel pan 0 8 (by decide),
    extract_all]

theorem decodePop_setButtons (mask : BitVec 3) (low : BitVec 24) :
    decodePop (1#2 ++ ((0#5 ++ mask) ++ low)) = .setButtons mask := by
  rw [decodePop_word 1#2 (0#5 ++ mask) low, if_neg (by decide), if_pos (by decide),
    extract_append_low (m := 3) 0#5 mask 0 3 (by decide), extract_all]

theorem decode_ctl_word (c : Config) (d : DState) (req iface : Byte) (value : BitVec 16) (data : Byte) :
    decode c d (.ctl (req ++ (iface ++ value)) data) = .ok (decodeRequest c req iface value data) := by
  rw [decode, decodeCtl, extract_append_high (m := 24), extract_append_low (m := 24) req _ 16 8 (by decide),
    extract_append_high (m := 16), extract_append_low (m := 24) req _ 0 16 (by decide),
    extract_append_low (m := 16) iface value 0 16 (by decide), extract_all]

theorem decode_ktx16_word (c : Config) (d : DState) (cmd : Byte) (high low : BitVec 4) :
    decode c d (.ktx16 (cmd ++ (high ++ low))) =
      if cmd = c.cmdLeds ∧ high = 0 then .ok (.cmdLeds low) else .error .notLedCommand := by
  rw [decode, extract_append_high (m := 8), extract_append_low (m := 8) cmd _ 4 4 (by decide),
    extract_append_high (m := 4), extract_append_low (m := 8) cmd _ 0 4 (by decide),
    extract_append_low (m := 4) high low 0 4 (by decide), extract_all]

theorem decodeMask_word (num compose scroll caps : Bool) :
    decodeMask (0#4 ++ (BitVec.ofBool caps ++ (BitVec.ofBool scroll ++ (BitVec.ofBool compose ++ BitVec.ofBool num)))) =
      .ok (.sunLedMask num compose scroll caps) := by
  revert num compose scroll caps
  decide

/-! ### The reports (R97, R98) -/

theorem decodeKrpt_lanes (kmod reserved k0 k1 k2 k3 k4 k5 : Byte) :
    decodeKrpt (packLanes [kmod, reserved, k0, k1, k2, k3, k4, k5]) =
      if reserved = 0 then .ok (.kbdReport kmod k0 k1 k2 k3 k4 k5) else .error .reservedByte := by
  simp [decodeKrpt, laneByte_packLanes]

theorem extract_buttons (btn : BitVec 3) : (btn.setWidth 8).extractLsb' 0 3 = btn := by
  rw [BitVec.extractLsb'_setWidth_of_le (by decide), BitVec.extractLsb'_eq_self]

theorem extract_above_buttons (btn : BitVec 3) : (btn.setWidth 8).extractLsb' 3 5 = 0 := by
  have hzero : btn.setWidth 8 = 0#5 ++ btn := BitVec.setWidth_eq_append (by decide)
  rw [hzero]
  exact extract_append_high 0#5 btn

/-- A packed pointer report reads back, if a delta its build does not carry is zero. -/
theorem decodePrpt_ptrBytes (btn : BitVec 3) (dx dy : Byte) {wheel pan : Byte} (hwheel : c.hasWheel = false → wheel = 0)
    (hpan : c.hasPan = false → pan = 0) :
    decodePrpt c (packLanes (ptrBytes c btn dx dy wheel pan)) = .ok (.ptrReport btn dx dy wheel pan) := by
  have hbuttons : laneByte (packLanes (ptrBytes c btn dx dy wheel pan)) 0 = btn.setWidth 8 :=
    laneByte_packLanes_zero _ _
  have hpadding : packLanes (ptrBytes c btn dx dy wheel pan) >>> (8 * c.ptrUsed) = 0 := by
    rw [← ptrBytes_length c btn dx dy wheel pan]
    exact packLanes_shift _
  rw [decodePrpt, hbuttons, extract_buttons, if_pos ⟨extract_above_buttons btn, hpadding⟩]
  cases hw : c.hasWheel <;> cases hp : c.hasPan <;> simp [ptrBytes, hw, hp, hwheel, hpan, laneByte_packLanes]

/-! ### The selection of a class request (R94) -/

theorem ifok_ifaceOf (c : Config) (e : Endpoint) : c.ifok (ifaceOf c e) = true := by
  cases e <;> simp [Config.ifok, ifaceOf]

theorem endpointOf_ifaceOf (hcfg : configOk c = true) (e : Endpoint) : endpointOf c (ifaceOf c e) = some e := by
  cases e <;> simp [endpointOf, ifaceOf, configOk_interfaces hcfg]

/-- An interface number is that of an endpoint, or of none (R238). -/
theorem endpointOf_cases (c : Config) (iface : Byte) :
    (∃ e, endpointOf c iface = some e ∧ iface = ifaceOf c e) ∨ endpointOf c iface = none := by
  by_cases hk : iface = c.ifKbd
  · exact .inl ⟨.k, by simp [endpointOf, hk], hk⟩
  by_cases hp : iface = c.ifPtr
  · exact .inl ⟨.p, by simp [endpointOf, hk, ← hp], hp⟩
  · exact .inr (by simp [endpointOf, hk, hp])

theorem value_high_byte (hi lo : Byte) : (hi ++ lo : BitVec 16).extractLsb' 8 8 = hi :=
  extract_append_high hi lo

theorem value_low_byte (hi lo : Byte) : (hi ++ lo : BitVec 16).extractLsb' 0 8 = lo :=
  (extract_append_low hi lo 0 8 (by decide)).trans (extract_all lo)

section ServedRequests

variable {data : Byte} {value : BitVec 16} (hcfg : configOk c = true) (e : Endpoint)
include hcfg

theorem decodeRequest_getReport (hhi : value.extractLsb' 8 8 = 0x01) :
    decodeRequest c c.reqGetReport (ifaceOf c e) value data = .getReport e := by
  simp [decodeRequest, endpointOf_ifaceOf hcfg, hhi]

theorem decodeRequest_getIdle : decodeRequest c c.reqGetIdle (ifaceOf c e) value data = .getIdle e := by
  simp [decodeRequest, endpointOf_ifaceOf hcfg, configOk_requests hcfg]

theorem decodeRequest_getProtocol : decodeRequest c c.reqGetProtocol (ifaceOf c e) value data = .getProtocol e := by
  simp [decodeRequest, endpointOf_ifaceOf hcfg, configOk_requests hcfg]

theorem decodeRequest_setReport (hhi : value.extractLsb' 8 8 = 0x02) :
    decodeRequest c c.reqSetReport c.ifKbd value data = .setReport data := by
  simp [decodeRequest, endpointOf, hhi, configOk_requests hcfg]

theorem decodeRequest_setIdle :
    decodeRequest c c.reqSetIdle (ifaceOf c e) value data = .setIdle e (value.extractLsb' 8 8) := by
  simp [decodeRequest, endpointOf_ifaceOf hcfg, configOk_requests hcfg]

theorem decodeRequest_setProtocol :
    decodeRequest c c.reqSetProtocol (ifaceOf c e) value data = .setProtocol e (value.extractLsb' 0 8) := by
  simp [decodeRequest, endpointOf_ifaceOf hcfg, configOk_requests hcfg]

end ServedRequests

theorem served_eq_false_iff {req iface : Byte} {value : BitVec 16} :
    c.served req iface value = false ↔ c.ifok iface = true →
      (req = c.reqGetReport → value.extractLsb' 8 8 ≠ 0x01) ∧ req ≠ c.reqGetIdle ∧ req ≠ c.reqGetProtocol ∧
      (req = c.reqSetReport → iface = c.ifKbd → value.extractLsb' 8 8 ≠ 0x02) ∧
      req ≠ c.reqSetIdle ∧ req ≠ c.reqSetProtocol := by
  cases hif : c.ifok iface with
  | false =>
    have hkbd : iface ≠ c.ifKbd := by
      rintro rfl
      simp [Config.ifok] at hif
    simp [Config.served, hif, hkbd]
  | true =>
    simp [Config.served, hif, and_assoc]

/-- A request the six rows do not serve is rejected. -/
theorem decodeRequest_of_not_served {req iface data : Byte} {value : BitVec 16} (h : c.served req iface value = false) :
    decodeRequest c req iface value data = .reject req iface value := by
  rcases endpointOf_cases c iface with ⟨e, he, rfl⟩ | he
  · obtain ⟨hgetReport, hgetIdle, hgetProtocol, hsetReport, hsetIdle, hsetProtocol⟩ :=
      served_eq_false_iff.mp h (ifok_ifaceOf c e)
    simp only [decodeRequest, he, hgetIdle, hgetProtocol, hsetIdle, hsetProtocol, if_false]
    split_ifs with hreq hhi hreq hhi
    · exact absurd hhi (hgetReport hreq)
    · rfl
    · exact absurd hhi.2 (hsetReport hreq (by rw [hhi.1]; rfl))
    · rfl
    · rfl
  · simp [decodeRequest, he]

/-- A request's selection word decodes to the request it was written for. -/
theorem decode_encode_request {i : Instr} (hcfg : configOk c = true) (hrequest : isRequest i = true)
    (hwf : i.wf c = true) : decode c d (encode c i) = .ok i := by
  cases i with
  | getReport e => exact (decode_ctl_word ..).trans (congrArg _ (decodeRequest_getReport hcfg e (value_high_byte _ _)))
  | getIdle e => exact (decode_ctl_word ..).trans (congrArg _ (decodeRequest_getIdle hcfg e))
  | getProtocol e => exact (decode_ctl_word ..).trans (congrArg _ (decodeRequest_getProtocol hcfg e))
  | setReport data => exact (decode_ctl_word ..).trans (congrArg _ (decodeRequest_setReport hcfg (value_high_byte _ _)))
  | setIdle e rate =>
    rw [encode, decode_ctl_word, decodeRequest_setIdle hcfg e, value_high_byte]
  | setProtocol e proto =>
    rw [encode, decode_ctl_word, decodeRequest_setProtocol hcfg e, value_low_byte]
  | reject req iface value =>
    rw [encode, decode_ctl_word, decodeRequest_of_not_served (by simpa [Instr.wf] using hwf)]
  | _ => cases hrequest

/-! ### The LED mask (R123) -/

/-- The packed mask, bit by bit: num, compose, scroll, caps, and zeros above. -/
theorem hid2sunLeds_eq_setWidth {leds : Byte} {m : BitVec 4} (hnum : m.getLsbD 0 = leds.getLsbD 0)
    (hcompose : m.getLsbD 1 = leds.getLsbD 3) (hscroll : m.getLsbD 2 = leds.getLsbD 2)
    (hcaps : m.getLsbD 3 = leds.getLsbD 1) : hid2sunLeds leds = m.setWidth 8 := by
  apply BitVec.eq_of_getLsbD_eq
  intro i hi
  rw [BitVec.getLsbD_setWidth]
  interval_cases i <;> simp_all [hid2sunLeds]

end Sys2Proof.Machine
end

section
/-! THE STATEMENTS OF 30_encoding.md: the decoder undoes the encoder (R82 to R99), the selections of R82 and R94, the wires of a
response (R95), and the commands and reports as formats (R96, R99). -/

namespace Sys2Proof.Machine

/-- Settles O5, format by format: an encoded word's fields read back, and a legal configuration keeps the markers, the request
codes and the interfaces apart. -/
theorem decodeEncodeRoundTrip : Obligations.DecodeEncodeRoundTrip := by
  intro c d i hcfg hwf hcontext
  cases i with
  | resetAck | layoutResp | selftestFail | idle | keyDown | keyUp | krxOperand =>
    exact congrArg Except.ok (decodeKrx_krxByte hcfg rfl hwf hcontext)
  | press u | release u => exact decodeKop_word _ u
  | releaseAll => exact decodeKop_word 2#2 0#8
  | move dx dy wheel pan => exact congrArg Except.ok (decodePop_move dx dy wheel pan)
  | setButtons mask => exact congrArg Except.ok (decodePop_setButtons mask 0#24)
  | buttonPress n | buttonRelease n => exact congrArg Except.ok (decodePop_word _ n 0#24)
  | getReport | getIdle | getProtocol | setReport | setIdle | setProtocol | reject =>
    exact decode_encode_request hcfg rfl hwf
  | reset | settle | ktxAccept | krxFail | txDoneK | txDoneP => rfl
  | activate e => cases e <;> rfl
  | cmdReset => exact if_pos rfl
  | cmdLeds m => exact (decode_ktx16_word c d c.cmdLeds 0#4 m).trans (if_pos ⟨rfl, rfl⟩)
  | kbdReport kmod k0 k1 k2 k3 k4 k5 => exact decodeKrpt_lanes kmod 0 k0 k1 k2 k3 k4 k5
  | ptrReport btn dx dy wheel pan =>
    simp only [Instr.wf, Bool.and_eq_true, Bool.or_eq_true, beq_iff_eq] at hwf
    obtain ⟨hwheel, hpan⟩ := hwf
    exact decodePrpt_ptrBytes btn dx dy (fun h => by simpa [h] using hwheel) (fun h => by simpa [h] using hpan)
  | outputReport data | mouseRaw raw => rfl
  | sunLedMask num compose scroll caps => exact decodeMask_word num compose scroll caps

/-- Settles O7: the step runs the form `classify` selects, and an unexpected byte halts the decoder whichever form that is. -/
theorem firstByteSelectsItsForm : Obligations.FirstByteSelectsItsForm := by
  intro s b rest hfirst hk hprobe hpending s'
  have hready : firstReady s = true := firstReady_iff.mpr ⟨hfirst, hk⟩
  have hdecode : decode s.cfg s.dstate (.krx b) = .ok (classify s.cfg b) := by simp [decode, decodeKrx, hfirst, DState.isArg]
  have hstep : step s = exec (classify s.cfg b) s' :=
    (stepRunsTheDecodedEvent s (.krx b) rest _ hdecode).1 hprobe hpending rfl ((enabled_classify s.cfg b s).trans hready)
  refine ⟨?unexpected, fun _ => ⟨?resetAck, ?layoutResp, ?selftestFail, ?idle, ?keyDown, ?keyUp⟩⟩
  case unexpected =>
    intro hunexpected
    have hbyte : krxByte s'.cfg (classify s.cfg b) = b := krxByte_classify s.cfg b
    have hhalt : unexpected s'.cfg s'.dstate b = true := by simpa [s', unexpected, hfirst] using hunexpected
    rw [hstep, exec_of_enabled ((enabled_classify s.cfg b s').trans hready),
      effect_of_unexpected (isLineByte_classify s.cfg b) (by rwa [hbyte]), hbyte]
    rfl
  case resetAck =>
    rintro rfl
    rw [hstep, classify_mResetAck]
  case layoutResp =>
    rintro hreset rfl
    rw [hstep, classify_mLayout hreset]
  case selftestFail =>
    rintro hreset hlayout rfl
    rw [hstep, classify_mSelftestFail hreset hlayout]
  case idle =>
    rintro hreset hlayout hfail rfl
    rw [hstep, classify_mIdle hreset hlayout hfail]
  case keyDown =>
    intro hreset hlayout hfail hidle hdown
    rw [hstep, classify_of_not_marker (isMarker_eq_false_iff.mpr ⟨hreset, hlayout, hfail, hidle⟩), hdown]
    rfl
  case keyUp =>
    intro hreset hlayout hfail hidle hup
    rw [hstep, classify_of_not_marker (isMarker_eq_false_iff.mpr ⟨hreset, hlayout, hfail, hidle⟩), hup]
    rfl

/-- Settles O8: the rows of R94 one by one; the other combinations are exactly those no row serves. -/
theorem requestWordSelection : Obligations.RequestWordSelection := by
  intro c d req iface hi lo data hcfg got at_
  have hgot : got = .ok (decodeRequest c req iface (hi ++ lo) data) := decode_ctl_word ..
  have hat (e : Endpoint) (h : at_ e) : iface = ifaceOf c e := by cases e <;> exact h
  rw [hgot]
  refine ⟨?getReport, ?getIdle, ?getProtocol, ?setReport, ?setIdle, ?setProtocol, ?reject⟩
  case getReport =>
    rintro e h rfl rfl
    rw [hat e h, decodeRequest_getReport hcfg e (value_high_byte _ lo)]
  case getIdle =>
    rintro e h rfl
    rw [hat e h, decodeRequest_getIdle hcfg]
  case getProtocol =>
    rintro e h rfl
    rw [hat e h, decodeRequest_getProtocol hcfg]
  case setReport =>
    rintro rfl rfl rfl
    rw [decodeRequest_setReport hcfg (value_high_byte _ lo)]
  case setIdle =>
    rintro e h rfl
    rw [hat e h, decodeRequest_setIdle hcfg, value_high_byte]
  case setProtocol =>
    rintro e h rfl
    rw [hat e h, decodeRequest_setProtocol hcfg, value_low_byte]
  case reject =>
    intro hother
    have hnot : c.served req iface (hi ++ lo) = false := by
      rw [served_eq_false_iff, value_high_byte]
      have hreq := configOk_requests hcfg
      intro hif
      simp only [Config.ifok, Bool.or_eq_true, beq_iff_eq] at hif
      rcases hother with ⟨hkbd, hptr⟩ | ⟨rfl, hhi⟩ | ⟨rfl, hhi⟩ | hnone <;> grind
    rw [decodeRequest_of_not_served hnot]

/-- Settles O50: a report's bytes fill the low lanes of the response's bus, and its length is that of its endpoint. -/
theorem responseWires : Obligations.ResponseWires := by
  refine ⟨⟨rfl, rfl, rfl⟩, ⟨rfl, rfl, rfl⟩, ?code, fun _ => rfl, fun b => ⟨rfl, rfl, ?byte⟩, fun s hcfg =>
    ⟨?lengthK, ?lengthP, ?lanes, ?zeroAbove⟩⟩
  case code => intro r; cases r <;> simp [CtlRsp.code]
  case byte => simp [CtlRsp.rdata, CtlRsp.bytes, packLanes]
  case lengthK => exact congrArg (BitVec.ofNat 4) (keyboardReport_length s)
  case lengthP => exact congrArg (BitVec.ofNat 4) (pointerReport_length hcfg)
  case lanes => exact fun e i h => laneByte_packLanes _ (reportOf_length_le e hcfg) i h
  case zeroAbove => exact fun e => packLanes_shift (reportOf e s)

/-- Settles O55: the mask written in the command is the packed mask, so the command is enabled and its effect queues it. -/
theorem ledCommandCarriesThePackedMask : Obligations.LedCommandCarriesThePackedMask := by
  intro s m hidle hnum hcompose hscroll hcaps
  have hmask : hid2sunLeds s.oled = m.setWidth 8 := hid2sunLeds_eq_setWidth hnum hcompose hscroll hcaps
  have hbyte : m.setWidth 8 = 0#4 ++ m := BitVec.setWidth_eq_append (by decide)
  have henabled : enabled (.cmdLeds m) s = true := by simp [enabled, ctlBusy_eq_false_iff.mpr hidle, hmask]
  rw [exec_of_enabled henabled, ← hbyte]
  rfl

/-- Settles O6, word by word. -/
theorem wordsDecodeAsWritten : Obligations.WordsDecodeAsWritten :=
  ⟨rfl, rfl, rfl, rfl, rfl, rfl, rfl, rfl, rfl⟩

/-- Settles O54: the sending leaves `D_SETTLE`, where alone it and SETTLE are enabled. -/
theorem resetCommandIsSentOnce : Obligations.ResetCommandIsSentOnce := by
  intro s hsettle
  exact ⟨sendReset s, exec_of_enabled (i := .cmdReset) (by simp [enabled, hsettle]), rfl,
    exec_disabled (i := .cmdReset) rfl, exec_disabled (i := .settle) rfl⟩

/-- Settles O56: the byte has the whole effect of the request it completes, and both wait for the control context alone. -/
theorem outputReportIsStoredAndForwarded : Obligations.OutputReportIsStoredAndForwarded := by
  intro s data hidle
  have hfree : (!ctlBusy s) = true := by simp [ctlBusy_eq_false_iff.mpr hidle]
  exact ⟨acceptOutputReport data s, exec_of_enabled (i := .outputReport data) hfree,
    exec_of_enabled (i := .setReport data) hfree, rfl, List.length_append⟩

end Sys2Proof.Machine
end

section
/-! SUPPORT. The packed LED mask read bit by bit (R123, R124), and the button mapper on a byte its parameter lists and on one it
does not list (R125, R126). -/

namespace Sys2Proof.Machine

/-! ### The LED packer as an exchange of bits (R124) -/

/-- The packer clears the high nibble and exchanges bits 1 and 3. -/
theorem getLsbD_hid2sunLeds (leds : Byte) (i : Nat) :
    (hid2sunLeds leds).getLsbD i = (decide (i < 4) && leds.getLsbD (Equiv.swap 1 3 i)) := by
  by_cases hi : i < 8
  · interval_cases i <;> simp [hid2sunLeds, Equiv.swap_apply_def]
  · have hhigh : ¬ i < 4 := by omega
    simp [hhigh, BitVec.getLsbD_of_ge (hid2sunLeds leds) i (by omega)]

theorem getLsbD_and_lowNibble (b : Byte) (i : Nat) :
    (b &&& 0x0F#8).getLsbD i = (decide (i < 4) && b.getLsbD i) := by
  have hnibble : 0x0F#8 = (BitVec.allOnes 4).setWidth 8 := rfl
  rw [BitVec.getLsbD_and, hnibble, BitVec.getLsbD_setWidth, BitVec.getLsbD_allOnes]
  by_cases hi : i < 4
  · simp [hi, show i < 8 by omega]
  · simp [hi]

theorem swap_one_three_lt_four {i : Nat} (hi : i < 4) : Equiv.swap 1 3 i < 4 := by
  interval_cases i <;> decide

/-- Kana and the reserved bits do not reach the mask (R123). -/
theorem hid2sunLeds_and_lowNibble (leds : Byte) : hid2sunLeds (leds &&& 0x0F#8) = hid2sunLeds leds := by
  apply BitVec.eq_of_getLsbD_eq
  intro i _
  rw [getLsbD_hid2sunLeds, getLsbD_hid2sunLeds, getLsbD_and_lowNibble]
  by_cases hi : i < 4
  · simp [swap_one_three_lt_four hi]
  · simp [hi]

/-- The exchange undoes itself, so the packer is its own inverse on the low nibble (R124). -/
theorem hid2sunLeds_hid2sunLeds (leds : Byte) : hid2sunLeds (hid2sunLeds leds) = leds &&& 0x0F#8 := by
  apply BitVec.eq_of_getLsbD_eq
  intro i _
  rw [getLsbD_hid2sunLeds, getLsbD_hid2sunLeds, getLsbD_and_lowNibble, Equiv.swap_apply_self]
  by_cases hi : i < 4
  · simp [swap_one_three_lt_four hi]
  · simp [hi]

/-- The SUN_LED_MASK word's four bits stand in the order num, compose, scroll, caps, from bit 0 up. -/
theorem sunLedMask_word_bits : ∀ num compose scroll caps : Bool,
    let word := BitVec.ofBool caps ++ (BitVec.ofBool scroll ++ (BitVec.ofBool compose ++ BitVec.ofBool num))
    word.getLsbD 0 = num ∧ word.getLsbD 1 = compose ∧ word.getLsbD 2 = scroll ∧ word.getLsbD 3 = caps := by
  decide

/-- The word that carries the packed mask of the stored report is the one the block produces. -/
theorem enabled_sunLedMask_oled (s : State) :
    enabled (.sunLedMask (s.oled.getLsbD 0) (s.oled.getLsbD 3) (s.oled.getLsbD 2) (s.oled.getLsbD 1)) s = true := by
  obtain ⟨hnum, hcompose, hscroll, hcaps⟩ :=
    sunLedMask_word_bits (s.oled.getLsbD 0) (s.oled.getLsbD 3) (s.oled.getLsbD 2) (s.oled.getLsbD 1)
  have hpacked := hid2sunLeds_eq_setWidth hnum hcompose hscroll hcaps
  exact beq_iff_eq.mpr (hpacked.trans (BitVec.setWidth_eq_append (by decide)))

/-! ### The button mapper (R125, R126) -/

theorem sun2hidMousebuttons_of_unlisted {c : Config} {raw : Byte} (h : ∀ e ∈ c.mouseBtn, e.1 ≠ raw) :
    sun2hidMousebuttons c raw = mouseDefault raw := by
  have hfind : c.mouseBtn.find? (fun e => e.1 == raw) = none := by simpa [List.find?_eq_none] using h
  rw [sun2hidMousebuttons, hfind]

/-- The first entry of a listed byte is its mask. -/
theorem sun2hidMousebuttons_of_listed {c : Config} {raw : Byte} {m : BitVec 3} {pre post : List (Byte × BitVec 3)}
    (hlist : c.mouseBtn = pre ++ (raw, m) :: post) (hpre : ∀ e ∈ pre, e.1 ≠ raw) :
    sun2hidMousebuttons c raw = m := by
  have hnone : pre.find? (fun e => e.1 == raw) = none := by simpa [List.find?_eq_none] using hpre
  have hfind : c.mouseBtn.find? (fun e => e.1 == raw) = some (raw, m) := by simp [hlist, List.find?_append, hnone]
  rw [sun2hidMousebuttons, hfind]

/-- The default's buttons are active low: bit 2 is left, bit 0 right, bit 1 middle (R126). -/
theorem mouseDefault_bits (raw : Byte) :
    (mouseDefault raw).getLsbD 0 = (!raw.getLsbD 2) ∧ (mouseDefault raw).getLsbD 1 = (!raw.getLsbD 0) ∧
      (mouseDefault raw).getLsbD 2 = (!raw.getLsbD 1) := by
  simp only [mouseDefault, BitVec.getLsbD_append]
  simp

end Sys2Proof.Machine
end

section
/-! THE STATEMENTS OF 40_translation_tables.md: the LED packer (R123, R124) and the button mapper (R125, R126). -/

namespace Sys2Proof.Machine

/-- Settles O57: the word of the packed mask is enabled, and the packer exchanges bits 1 and 3 of the low nibble. -/
theorem ledMaskIsThePackedReport : Obligations.LedMaskIsThePackedReport := by
  intro s
  have hbit := getLsbD_hid2sunLeds s.oled
  refine ⟨hid2sunLeds s.oled, exec_of_enabled (enabled_sunLedMask_oled s), hbit 0, hbit 1, hbit 2, hbit 3, ?zerosAbove,
    hid2sunLeds_and_lowNibble s.oled, hid2sunLeds_hid2sunLeds s.oled⟩
  case zerosAbove =>
    intro i hi
    simp [hbit, Nat.not_lt.mpr hi]

/-- Settles O58: the mapper is always enabled and only emits; a byte is read in the list where it stands, or by default. -/
theorem buttonMapperAnswers : Obligations.ButtonMapperAnswers := by
  intro s raw
  refine ⟨sun2hidMousebuttons s.cfg raw, exec_of_enabled (i := .mouseRaw raw) rfl, ?unlisted, ?listed⟩
  case unlisted =>
    intro hnone
    rw [sun2hidMousebuttons_of_unlisted hnone]
    exact mouseDefault_bits raw
  case listed => exact fun m pre post hlist hpre => sun2hidMousebuttons_of_listed hlist hpre

end Sys2Proof.Machine
end

section
/-! SUPPORT. The decoder's own laws: a byte of the keyboard line by whether it is expected (R151), the idle marker's release
(R147), the entries of the transmit queue (R245), the table of R140 as a relation, and what the decoder state does not reach
(R153). -/

namespace Sys2Proof.Machine

variable {s : State} {i : Instr}

/-! ### A byte of the keyboard line -/

theorem isLineByte_decodeKrx (c : Config) (d : DState) (b : Byte) : isLineByte (decodeKrx c d b) = true := by
  unfold decodeKrx
  split
  · rfl
  · exact isLineByte_classify c b

/-- Whatever a byte is read as stands for that byte. -/
theorem krxByte_decodeKrx (c : Config) (d : DState) (b : Byte) : krxByte c (decodeKrx c d b) = b := by
  unfold decodeKrx
  split
  · rfl
  · exact krxByte_classify c b

/-- A byte is taken only while the line is read (R143, R150). -/
theorem krxReady_of_lineByte (hline : isLineByte i = true) (he : enabled i s = true) : krxReady s = true := by
  cases i with
  | resetAck | layoutResp | selftestFail | idle | keyDown | keyUp =>
    obtain ⟨hd, hk⟩ := firstReady_iff.mp he
    exact krxReady_iff.mpr ⟨.inl hd, hk⟩
  | krxOperand =>
    obtain ⟨hd, hk⟩ : s.dstate.isArg = true ∧ s.inflight.k = false := by simpa [enabled, argReady] using he
    exact krxReady_iff.mpr ⟨.inr (isArg_iff.mp hd), hk⟩
  | _ => cases hline

theorem unexpected_iff {c : Config} {d : DState} {b : Byte} : unexpected c d b = true ↔ (d, b) ∈ c.unexpected := by
  simp [unexpected]

theorem takeByte_of_expected {b : Byte} {form : State → State} (h : (s.dstate, b) ∉ s.cfg.unexpected) :
    takeByte b form s = form s :=
  if_neg (by rwa [unexpected_iff])

/-- An expected byte that is enabled has the effect of its form. -/
theorem exec_of_expected {b : Byte} {form : State → State} (he : enabled i s = true)
    (hform : effect i s = takeByte b form s) (hexpected : (s.dstate, b) ∉ s.cfg.unexpected) :
    exec i s = .next (form s) := by
  rw [exec_of_enabled he, hform, takeByte_of_expected hexpected]

theorem exec_krxOperand {v : Byte} (harg : s.dstate.isArg = true) (hk : s.inflight.k = false)
    (hexpected : (s.dstate, v) ∉ s.cfg.unexpected) :
    exec (.krxOperand v) s =
      .next (goto .first (if s.dstate = .argFail then raiseCond (.selfTestFailure v) s else s)) := by
  have henabled : enabled (.krxOperand v) s = true := by simp [enabled, argReady, harg, hk]
  rw [exec_of_enabled henabled, effect, takeByte_of_expected hexpected]

/-- Where a line byte leads the decoder when it is expected: a marker with an operand to its operand state, every other byte to
`D_FIRST`. -/
def dstateAfter : Instr → DState
  | .resetAck => .argReset
  | .layoutResp => .argLayout
  | .selftestFail => .argFail
  | _ => .first

theorem lineByte_dstateAfter (hline : isLineByte i = true) (hexpected : (s.dstate, krxByte s.cfg i) ∉ s.cfg.unexpected) :
    (effect i s).dstate = dstateAfter i := by
  cases i with
  | resetAck | layoutResp | selftestFail | idle | keyDown | keyUp | krxOperand =>
    exact congrArg State.dstate (takeByte_of_expected hexpected)
  | _ => cases hline

/-! ### The idle marker (R147) and the usage code of a live entry (R70) -/

theorem allReleased_iff_slots : allReleased s = true ↔ s.kmod = 0x00 ∧ ∀ i : Fin 6, s.kkey[i] = 0x00 := by
  rw [allReleased_iff, kkey_eq_replicate_iff]

theorem exec_idle (hd : s.dstate = .first) (hk : s.inflight.k = false)
    (hexpected : (DState.first, s.cfg.mIdle) ∉ s.cfg.unexpected) : exec .idle s = .next (releaseAll s).2 := by
  have hfirst : (releaseAll s).2.dstate = .first := (releaseAll_same s).dstate.trans hd
  have hready : enabled .idle s = true := firstReady_iff.mpr ⟨hd, hk⟩
  rw [exec_of_enabled hready, effect, takeByte_of_expected (hd ▸ hexpected), goto_of_dstate hfirst]

theorem usageOf_of_no_marker {c : Config} {sc : BitVec 7}
    (h : ∀ m ∈ [c.mIdle, c.mResetAck, c.mLayout, c.mSelftestFail], m.extractLsb' 0 7 ≠ sc) :
    usageOf c sc = Memory.read c.scanrom sc.toNat := by
  refine usageOf_live (Bool.eq_false_iff.mpr fun hdead => ?_)
  obtain ⟨m, hm, hsc⟩ := deadEntry_iff_marker.mp hdead
  exact h m hm hsc

/-! ### The transmit queue (R245) -/

theorem configOk_ktxDepth {c : Config} (h : configOk c = true) : 3 ≤ c.ktxDepth := by
  rw [configOk, Bool.and_eq_true] at h
  exact of_decide_eq_true h.2

/-- The one entry of the decoder in the queue is the reset command, and it is there only while the decoder waits for it. -/
theorem QueueInv.of_dec_mem (h : QueueInv s) {x : KtxEntry} (hx : x ∈ s.ktx) (hdec : x.tag = .dec) :
    s.dstate = .resetTx ∧ x = resetEntry s := by
  have hled : x ≠ ledEntry s := fun hx => by simp [hx, ledEntry] at hdec
  have hmask : x ≠ maskEntry s := fun hx => by simp [hx, maskEntry] at hdec
  by_cases hd : s.dstate = .resetTx
  · refine ⟨hd, ?_⟩
    rcases (queueInv_iff_of_resetTx hd).mp h with hq | hq | hq | hq <;> simpa [hq, hled, hmask] using hx
  · rcases (queueInv_iff_of_ne hd).mp h with hq | hq | hq <;> simp [hq, hled, hmask] at hx

/-- Outside `D_RESET_TX` the queue has room for one entry more. -/
theorem QueueInv.room (h : QueueInv s) (hcfg : configOk s.cfg = true) (hd : s.dstate ≠ .resetTx) :
    s.ktx.length + 1 ≤ s.cfg.ktxDepth := by
  have hdepth := configOk_ktxDepth hcfg
  have hlength : s.ktx.length ≤ 2 := by
    rcases (queueInv_iff_of_ne hd).mp h with hq | hq | hq <;> simp [hq]
  omega

/-! ### The table of `dstate` (R140) -/

/-- The lines of R140's table: the decoder states an event leads to from `s`. -/
inductive DecoderMoves (s : State) : Instr → DState → Prop where
  | stays (i : Instr) : DecoderMoves s i s.dstate
  | reset : DecoderMoves s .reset .settle
  | settle (hd : s.dstate = .settle) : DecoderMoves s .settle .resetTx
  | cmdReset (hd : s.dstate = .settle) : DecoderMoves s .cmdReset .resetTx
  | resetLeaves (hd : s.dstate = .resetTx) (hhead : s.ktx.head? = some (resetEntry s)) : DecoderMoves s .ktxAccept .first
  | resetAck (hd : s.dstate = .first) : DecoderMoves s .resetAck .argReset
  | layoutResp (hd : s.dstate = .first) : DecoderMoves s .layoutResp .argLayout
  | selftestFail (hd : s.dstate = .first) : DecoderMoves s .selftestFail .argFail
  | operand (v : Byte) (hd : s.dstate.isArg = true) : DecoderMoves s (.krxOperand v) .first
  | unexpected (i : Instr) (hline : isLineByte i = true) (hreads : s.dstate.reads = true)
      (hmem : (s.dstate, krxByte s.cfg i) ∈ s.cfg.unexpected) : DecoderMoves s i .halt
  | lineFails (hreads : s.dstate.reads = true) : DecoderMoves s .krxFail .halt

theorem DecoderMoves.of_same {d : DState} (h : d = s.dstate) : DecoderMoves s i d :=
  h ▸ .stays i

theorem reads_of_krxReady (h : krxReady s = true) : s.dstate.reads = true :=
  reads_iff.mpr (krxReady_iff.mp h).1

theorem lineByte_moves (hline : isLineByte i = true) (he : enabled i s = true) :
    DecoderMoves s i (effect i s).dstate := by
  by_cases hmem : (s.dstate, krxByte s.cfg i) ∈ s.cfg.unexpected
  · rw [effect_of_unexpected hline (unexpected_iff.mpr hmem)]
    exact .unexpected i hline (reads_of_krxReady (krxReady_of_lineByte hline he)) hmem
  · rw [lineByte_dstateAfter hline hmem]
    cases i with
    | resetAck => exact .resetAck (firstReady_iff.mp he).1
    | layoutResp => exact .layoutResp (firstReady_iff.mp he).1
    | selftestFail => exact .selftestFail (firstReady_iff.mp he).1
    | idle | keyDown | keyUp => exact .of_same (firstReady_iff.mp he).1.symm
    | krxOperand v => exact .operand v (Bool.and_eq_true_iff.mp he).1
    | _ => cases hline

theorem decoder_moves (ha : agentOf i = .decoder) (he : enabled i s = true) :
    DecoderMoves s i (effect i s).dstate := by
  cases i with
  | settle => exact .settle (beq_iff_eq.mp he)
  | cmdReset => exact .cmdReset (beq_iff_eq.mp he)
  | krxFail => exact .lineFails (reads_of_krxReady he)
  | press u => exact .of_same (press_same u s).dstate
  | release u => exact .of_same (release_same u s).dstate
  | releaseAll => exact .of_same (releaseAll_same s).dstate
  | kbdReport => exact .stays _
  | resetAck | layoutResp | selftestFail | idle | keyDown | keyUp | krxOperand => exact lineByte_moves rfl he
  | _ => cases ha

/-- The head's leaving moves the decoder only where the head is the reset command (R142, R247). -/
theorem acceptHead_moves (hqueue : QueueInv s) : DecoderMoves s .ktxAccept (acceptHead s).dstate := by
  cases hktx : s.ktx with
  | nil => exact .of_same (by simp [acceptHead, hktx])
  | cons x rest =>
    rw [acceptHead_cons hktx, emit_dstate]
    by_cases hdec : x.tag = .dec
    · obtain ⟨hd, hx⟩ := hqueue.of_dec_mem (hktx ▸ List.mem_cons_self) hdec
      rw [if_pos hdec]
      exact .resetLeaves hd (by rw [hktx, hx, List.head?_cons])
    · exact .of_same (if_neg hdec)

theorem completion_moves (ha : agentOf i = .completion) (hqueue : QueueInv s) :
    DecoderMoves s i (effect i s).dstate := by
  cases i with
  | ktxAccept => exact acceptHead_moves hqueue
  | txDoneK | txDoneP =>
    refine .of_same ?_
    simp only [effect]
    split
    · rfl
    · rfl
  | _ => cases ha

theorem OwnColumn.dstate {a : Agent} {t : State} (h : OwnColumn a s t) (ha : a = .pointer ∨ a = .control ∨ a = .mapper) :
    t.dstate = s.dstate := by
  rcases ha with rfl | rfl | rfl <;> (rw [OwnColumn] at h; rw [h])

/-- Every event moves the decoder along a line of the table, or not at all: the agents whose column holds `dstate` (R40) one by
one, and the others leave it alone. -/
theorem exec_moves {t : State} (hqueue : QueueInv s) (hexec : exec i s = .next t) : DecoderMoves s i t.dstate := by
  rcases exec_cases hexec with ⟨he, rfl⟩ | ⟨_, rfl⟩
  · have hcolumn := (effect_writes i s).column
    cases ha : agentOf i <;> rw [ha] at hcolumn
    case decoder => exact decoder_moves ha he
    case completion => exact completion_moves ha hqueue
    case reset =>
      obtain rfl := eq_reset_of_agentOf ha
      exact .reset
    case pointer | control | mapper => exact .of_same (hcolumn.dstate (by decide))
  · exact .stays i

/-! ### What the decoder state does not reach (R153) -/

theorem agentOf_pointerOp (h : isPointerOp i = true) : agentOf i = .pointer := by
  cases i with
  | move | setButtons | buttonPress | buttonRelease => rfl
  | _ => cases h

theorem agentOf_request (h : isRequest i = true) : agentOf i = .control := by
  cases i with
  | getReport | getIdle | getProtocol | setReport | setIdle | setProtocol | reject => rfl
  | _ => cases h

section OtherAgents

variable (ha : agentOf i = .pointer ∨ agentOf i = .control ∨ agentOf i = .completion)
include ha

/-- No other agent's enabling condition looks at the decoder state (R8). -/
theorem enabled_goto (d : DState) (s : State) : enabled i (goto d s) = enabled i s := by
  cases i with
  | move | setButtons | buttonPress | buttonRelease | ptrReport => rfl
  | getReport | getIdle | getProtocol | setReport | setIdle | setProtocol | reject | activate => rfl
  | cmdLeds | outputReport | sunLedMask | ktxAccept | txDoneK | txDoneP => rfl
  | _ => simp [agentOf] at ha

/-- Another agent's event commutes with a change of the decoder state, unless it lets the decoder's own entry leave the queue. -/
theorem effect_goto (d : DState) (hktx : i = .ktxAccept → ∀ x ∈ s.ktx, x.tag ≠ .dec) :
    effect i (goto d s) = goto d (effect i s) := by
  cases i with
  | move | setButtons | ptrReport => rfl
  | getReport | getIdle | getProtocol | setReport | setIdle | setProtocol | reject | activate => rfl
  | cmdLeds | outputReport | sunLedMask => rfl
  | buttonPress | buttonRelease =>
    simp only [effect, buttonPress, buttonRelease]
    split
    · rfl
    · rfl
  | txDoneK | txDoneP =>
    simp only [effect]
    rw [apply_ite (goto d)]
    rfl
  | ktxAccept =>
    simp only [effect]
    cases hq : s.ktx with
    | nil => simp [acceptHead, hq]
    | cons x rest =>
      have hx : x.tag ≠ .dec := hktx rfl x (hq ▸ List.mem_cons_self)
      rw [acceptHead_cons hq, acceptHead_cons (s := goto d s) hq, if_neg hx, if_neg hx]
      rfl
  | _ => simp [agentOf] at ha

theorem exec_goto (d : DState) (hktx : i = .ktxAccept → ∀ x ∈ s.ktx, x.tag ≠ .dec) :
    ∃ t, exec i s = .next t ∧ exec i (goto d s) = .next (goto d t) := by
  cases he : enabled i s with
  | true => exact ⟨_, exec_of_enabled he, by rw [exec_of_enabled ((enabled_goto ha d s).trans he), effect_goto ha d hktx]⟩
  | false => exact ⟨s, exec_disabled he, exec_disabled ((enabled_goto ha d s).trans he)⟩

end OtherAgents

end Sys2Proof.Machine
end

section
/-! THE STATEMENTS OF 41_decoder.md: the start-up (R141), the forms of the keyboard line (R144 to R150), an unexpected byte and
the line's failure (R151, R152), the halted decoder (R153), the line held back (R154), and the table of `dstate` (R140). -/

namespace Sys2Proof.Machine

/-- Settles O16: SETTLE is enabled in `D_SETTLE` alone, and the queue then holds at most one LED command. -/
theorem settleQueuesTheResetCommand : Obligations.SettleQueuesTheResetCommand := by
  intro s
  refine ⟨fun hd => exec_of_enabled (beq_iff_eq.mpr hd), fun hd => exec_disabled (beq_eq_false_iff_ne.mpr hd), ?room⟩
  case room =>
    rintro ⟨hcfg, _, _, _, hqueue⟩ hd
    exact hqueue.room hcfg (by simp [hd])

/-- Settles O20: whatever the byte is read as, it is enabled where the line is read, and its meaning tests it first. -/
theorem unexpectedByteHaltsTheDecoder : Obligations.UnexpectedByteHaltsTheDecoder := by
  rintro s b i hreads hk ⟨⟩ hmem
  have henabled : enabled (decodeKrx s.cfg s.dstate b) s = true := by
    rw [enabled_decodeKrx]
    exact krxReady_iff.mpr ⟨reads_iff.mp hreads, hk⟩
  have hbyte := krxByte_decodeKrx s.cfg s.dstate b
  rw [exec_of_enabled henabled,
    effect_of_unexpected (isLineByte_decodeKrx s.cfg s.dstate b) (by rw [hbyte]; exact unexpected_iff.mpr hmem), hbyte]
  rfl

/-- Settles O22: no event of the line or the timer is enabled in `D_HALT`; the other agents' events commute with a change of the
decoder state, since no entry of the decoder is queued; and RESET's is the one line of R140 that leaves `D_HALT`. -/
theorem haltIsLeftOnlyByReset : Obligations.HaltIsLeftOnlyByReset := by
  intro s hd
  have hnotRead : krxReady s = false := by simp [krxReady, hd, DState.reads, DState.isArg]
  refine ⟨by simp [khalted, hd], hnotRead, hnotRead, by simp [enabled, hd], ?line, ?others, ?leave⟩
  case line =>
    intro i hline
    refine Bool.eq_false_iff.mpr fun he => ?_
    simp [krxReady_of_lineByte hline he] at hnotRead
  case others =>
    intro i d hi
    have ha : agentOf i = .pointer ∨ agentOf i = .control ∨ agentOf i = .completion := by
      rcases hi with h | h | ⟨rfl, _⟩ | rfl | rfl | ⟨e, rfl⟩
      · exact .inl (agentOf_pointerOp h)
      · exact .inr (.inl (agentOf_request h))
      all_goals exact .inr (by simp [agentOf])
    have hktx : i = .ktxAccept → ∀ x ∈ s.ktx, x.tag ≠ .dec := by
      rintro rfl x hx hdec
      obtain ⟨_, _, _, _, hqueue⟩ : BlockInv s := by simpa [isPointerOp, isRequest] using hi
      have hwaits := (hqueue.of_dec_mem hx hdec).1
      simp [hd] at hwaits
    exact ⟨enabled_goto ha d s, exec_goto ha d hktx⟩
  case leave =>
    rintro ⟨_, _, _, _, hqueue⟩ i t hne hexec
    have hmove := exec_moves hqueue hexec
    generalize t.dstate = d at hmove ⊢
    cases hmove with
    | stays => exact hd
    | reset => exact absurd rfl hne
    | unexpected | lineFails => rfl
    | operand v harg => simp [hd, DState.isArg] at harg
    | _ h => simp [hd] at h

/-- Settles O24: the form of the idle marker is RELEASE_ALL, which transmits unless the report is all zero. -/
theorem idleMarkerReleasesEverythingAtOnce : Obligations.IdleMarkerReleasesEverythingAtOnce := by
  intro s hd hk hexpected
  rw [exec_idle hd hk hexpected, ← allReleased_iff_slots]
  rcases releaseAll_cases s with ⟨hzero, hrelease⟩ | ⟨hzero, hrelease⟩
  · exact ⟨fun _ => by rw [hrelease], fun hpressed => absurd hzero hpressed⟩
  · exact ⟨fun hnone => by simp [hzero] at hnone, fun _ => by rw [hrelease]; rfl⟩

/-- Settles O25: the code of a live entry is what the ROM reads there. -/
theorem keyDownPressesTheMappedCode : Obligations.KeyDownPressesTheMappedCode := by
  intro s sc hd hk hlive hexpected
  rw [← usageOf_of_no_marker hlive]
  exact exec_keyDown hd hk hexpected

/-- Settles O26: the code of a live entry is what the ROM reads there. -/
theorem keyUpReleasesTheMappedCode : Obligations.KeyUpReleasesTheMappedCode := by
  intro s sc hd hk hlive hexpected
  rw [← usageOf_of_no_marker hlive]
  exact exec_keyUp hd hk hexpected

/-- Settles O27: the table's lines, one by one. -/
theorem decoderMovesOnlyAlongItsTable : Obligations.DecoderMovesOnlyAlongItsTable := by
  rintro i s t ⟨_, _, _, _, hqueue⟩ hexec
  have hmove := exec_moves hqueue hexec
  generalize t.dstate = d at hmove ⊢
  cases hmove with
  | stays => simp
  | reset => simp
  | settle hd => simp [hd]
  | cmdReset hd => simp [hd]
  | resetLeaves hd hhead => simp [hd, hhead, resetEntry]
  | resetAck hd => simp [hd]
  | layoutResp hd => simp [hd]
  | selftestFail hd => simp [hd]
  | operand v harg => simp [isArg_iff.mp harg]
  | unexpected _ hline hreads hmem => simp [hline, hreads, hmem]
  | lineFails hreads => simp [hreads]

/-- Settles O18: the form of each of the three markers is the move to its operand state. -/
theorem markersOpenTheirOperandState : Obligations.MarkersOpenTheirOperandState := by
  intro s hd hk
  have hready : firstReady s = true := firstReady_iff.mpr ⟨hd, hk⟩
  rw [← hd]
  exact ⟨exec_of_expected (i := .resetAck) hready rfl, exec_of_expected (i := .layoutResp) hready rfl,
    exec_of_expected (i := .selftestFail) hready rfl⟩

/-- Settles O19: the form of an operand is the return to `D_FIRST`, with the condition in `D_ARG_FAIL`. -/
theorem operandByteReturnsToTheReadLoop : Obligations.OperandByteReturnsToTheReadLoop := by
  intro s v hk
  refine ⟨?discarded, ?failure, ?decoded⟩
  case discarded =>
    intro hd hexpected
    have hnot : s.dstate ≠ .argFail := by rcases hd with hd | hd <;> simp [hd]
    have harg : s.dstate.isArg = true := isArg_iff.mpr (hd.imp_right .inl)
    rw [exec_krxOperand harg hk hexpected, if_neg hnot]
    rfl
  case failure =>
    intro hd hexpected
    have harg : s.dstate.isArg = true := isArg_iff.mpr (.inr (.inr hd))
    rw [exec_krxOperand harg hk hexpected, if_pos hd]
    rfl
  case decoded =>
    intro hd
    simp [decode, decodeKrx, isArg_iff.mpr hd]

/-- Settles O21: the failure is enabled wherever the line is read, and its condition is of class 1. -/
theorem lineFailureHaltsTheDecoder : Obligations.LineFailureHaltsTheDecoder :=
  fun _ hk hd => exec_of_enabled (i := .krxFail) (krxReady_iff.mpr ⟨hd, hk⟩)

/-- Settles O23: whatever a byte is read as, it is enabled exactly while the line is read. -/
theorem reportInFlightHoldsTheLine : Obligations.ReportInFlightHoldsTheLine := by
  intro s hk
  have hnotRead : krxReady s = false := by simp [krxReady, hk]
  refine ⟨hnotRead, ?_⟩
  rintro b i ⟨⟩
  exact (enabled_decodeKrx b s).trans hnotRead

end Sys2Proof.Machine
end

section
/-! SUPPORT. The keyboard operations case by case (R171, R172), when they transmit (R170), and an operation answered by its
completion (R213). -/

namespace Sys2Proof.Machine

variable {s t : State} {u : Byte} {i : Instr}

/-! ### PRESS, case by case (R171) -/

theorem slotOf_eq_none {keys : Vector Byte 6} (h : ∀ i : Fin 6, keys[i] ≠ u) : slotOf keys u = none := by
  cases hs : slotOf keys u with
  | none => rfl
  | some j => exact absurd (slotOf_some hs) (h j)

theorem press_zero (s : State) : press 0x00 s = (.noop, s) :=
  if_pos rfl

theorem press_modifier_held (hm : isModifier s.cfg u = true) (hb : s.kmod.getLsbD (modBit s.cfg u).toNat = true) :
    press u s = (.noop, s) := by
  simp [press, hm, hb]

theorem press_modifier_new (h0 : u ≠ 0x00) (hm : isModifier s.cfg u = true)
    (hb : s.kmod.getLsbD (modBit s.cfg u).toNat = false) :
    press u s = (.changed, transmitK { s with kmod := setModifier s.kmod (modBit s.cfg u) }) := by
  rw [press, if_neg h0, if_pos hm, if_neg (by simp [hb])]

theorem press_key_held {i : Fin 6} (hm : isModifier s.cfg u = false) (hi : s.kkey[i] = u) : press u s = (.noop, s) := by
  obtain ⟨j, hj⟩ := slotOf_isSome hi
  simp [press, hm, hj]

theorem press_key_new {j : Fin 6} (h0 : u ≠ 0x00) (hm : isModifier s.cfg u = false) (hnew : ∀ i : Fin 6, s.kkey[i] ≠ u)
    (hj : slotOf s.kkey 0x00 = some j) :
    press u s = (.changed, transmitK { s with kkey := s.kkey.set j u }) := by
  rw [press, if_neg h0, if_neg (by simp [hm]), slotOf_eq_none hnew, hj]

theorem press_key_full (h0 : u ≠ 0x00) (hm : isModifier s.cfg u = false) (hnew : ∀ i : Fin 6, s.kkey[i] ≠ u)
    (hfull : ∀ i : Fin 6, s.kkey[i] ≠ 0x00) : press u s = (.overflow, raiseCond (.keyTableOverflow u) s) := by
  rw [press, if_neg h0, if_neg (by simp [hm]), slotOf_eq_none hnew, slotOf_eq_none hfull]

/-- The status of PRESS depends on the report and the configuration alone. -/
theorem press_status_congr (hcfg : t.cfg = s.cfg) (hkmod : t.kmod = s.kmod) (hkkey : t.kkey = s.kkey) :
    (press u t).1 = (press u s).1 := by
  simp only [press, hcfg, hkmod, hkkey]
  split_ifs
  · rfl
  · rfl
  · rfl
  · cases slotOf s.kkey u with
    | some => rfl
    | none => cases slotOf s.kkey 0x00 <;> rfl

/-! ### RELEASE, case by case (R172) -/

theorem release_zero (s : State) : release 0x00 s = (.noop, s) :=
  if_pos rfl

theorem release_modifier_up (hm : isModifier s.cfg u = true) (hb : s.kmod.getLsbD (modBit s.cfg u).toNat = false) :
    release u s = (.noop, s) := by
  simp [release, hm, hb]

theorem release_modifier_held (h0 : u ≠ 0x00) (hm : isModifier s.cfg u = true)
    (hb : s.kmod.getLsbD (modBit s.cfg u).toNat = true) :
    release u s = (.changed, transmitK { s with kmod := clearModifier s.kmod (modBit s.cfg u) }) := by
  rw [release, if_neg h0, if_pos hm, if_pos hb]

theorem release_key_up (hm : isModifier s.cfg u = false) (hnone : ∀ i : Fin 6, s.kkey[i] ≠ u) :
    release u s = (.noop, s) := by
  simp [release, hm, slotOf_eq_none hnone]

theorem release_key_held {j : Fin 6} (h0 : u ≠ 0x00) (hm : isModifier s.cfg u = false)
    (hj : slotOf s.kkey u = some j) :
    release u s = (.changed, transmitK { s with kkey := s.kkey.set j 0x00 }) := by
  rw [release, if_neg h0, if_neg (by simp [hm]), hj]

/-! ### The operation words -/

/-- An operation word's next state and status, from the operation's outcome. -/
theorem outcome_of_eq {r : Status × State} {x : Status} (hexec : exec i s = .next r.2) (h : r = (x, t)) :
    exec i s = .next t ∧ r.1 = x := by
  subst h
  exact ⟨hexec, rfl⟩

theorem isModifier_eq_false {c : Config} (h : ¬ (c.modBase.toNat ≤ u.toNat ∧ u.toNat ≤ c.modBase.toNat + 7)) :
    isModifier c u = false :=
  Bool.eq_false_iff.mpr fun hm => h (isModifier_iff.mp hm)

/-! ### When an operation transmits (R170) -/

/-- An operation on `s` with outcome `r` transmits exactly when its status is CHANGED, and then the report did change. -/
def TransmitsChangeOnly (s : State) (r : Status × State) : Prop :=
  (r.1 = .changed →
    (r.2.kmod ≠ s.kmod ∨ r.2.kkey ≠ s.kkey) ∧ r.2.inflight.k = true ∧
    r.2.outs = s.outs ++ [.krpt (r.2.kmod :: 0x00 :: r.2.kkey.toList)]) ∧
  (r.1 ≠ .changed → r.2.kmod = s.kmod ∧ r.2.kkey = s.kkey ∧ r.2.inflight = s.inflight ∧ r.2.outs = s.outs)

theorem TransmitsChangeOnly.of_noop (s : State) : TransmitsChangeOnly s (.noop, s) :=
  ⟨fun h => Status.noConfusion h, fun _ => ⟨rfl, rfl, rfl, rfl⟩⟩

theorem TransmitsChangeOnly.of_overflow (x : Condition) (s : State) :
    TransmitsChangeOnly s (.overflow, raiseCond x s) :=
  ⟨fun h => Status.noConfusion h, fun _ => ⟨rfl, rfl, rfl, rfl⟩⟩

theorem TransmitsChangeOnly.of_changed (hreport : t.kmod ≠ s.kmod ∨ t.kkey ≠ s.kkey) (houts : t.outs = s.outs) :
    TransmitsChangeOnly s (.changed, transmitK t) :=
  ⟨fun _ => ⟨hreport, rfl, by rw [transmitK_outs, houts]; rfl⟩, fun h => absurd rfl h⟩

theorem setModifier_ne {k : Byte} {b : BitVec 3} (h : k.getLsbD b.toNat = false) : setModifier k b ≠ k := by
  intro hsame
  have hbit := setModifier_getLsbD k b b
  rw [hsame, h] at hbit
  simp at hbit

theorem clearModifier_ne {k : Byte} {b : BitVec 3} (h : k.getLsbD b.toNat = true) : clearModifier k b ≠ k := by
  intro hsame
  have hbit := clearModifier_getLsbD k b b
  rw [hsame, h] at hbit
  simp at hbit

theorem setSlot_ne {keys : Vector Byte 6} {j : Fin 6} {v : Byte} (h : keys[j] ≠ v) : keys.set j v ≠ keys := by
  intro hsame
  have hslot : (keys.set j v)[j] = v := by rw [kkey_getElem_set, if_pos rfl]
  exact h (by rw [← hslot, hsame])

theorem press_transmitsChangeOnly (u : Byte) (s : State) : TransmitsChangeOnly s (press u s) := by
  rcases press_cases u s with ⟨hp, _⟩ | ⟨_, _, hb, hp⟩ | ⟨_, _, hnew, j, _, hp⟩ | ⟨_, _, _, _, hp⟩ <;> rw [hp]
  · exact .of_noop s
  · exact .of_changed (.inl (setModifier_ne hb)) rfl
  · exact .of_changed (.inr (setSlot_ne (hnew j))) rfl
  · exact .of_overflow _ s

theorem release_transmitsChangeOnly (u : Byte) (s : State) : TransmitsChangeOnly s (release u s) := by
  rcases release_cases u s with ⟨hr, _⟩ | ⟨_, _, hb, hr⟩ | ⟨h0, _, j, hj, hr⟩ <;> rw [hr]
  · exact .of_noop s
  · exact .of_changed (.inl (clearModifier_ne hb)) rfl
  · exact .of_changed (.inr (setSlot_ne (by rw [slotOf_some hj]; exact h0))) rfl

theorem releaseAll_transmitsChangeOnly (s : State) : TransmitsChangeOnly s (releaseAll s) := by
  rcases releaseAll_cases s with ⟨_, hr⟩ | ⟨hpressed, hr⟩ <;> rw [hr]
  · exact .of_noop s
  · refine .of_changed ?_ rfl
    by_contra hsame
    obtain ⟨hkmod, hkkey⟩ : 0x00#8 = s.kmod ∧ Vector.replicate 6 0x00#8 = s.kkey := by simpa using hsame
    simp [allReleased_iff.mpr ⟨hkmod.symm, hkkey.symm⟩] at hpressed

theorem release_ne_overflow (u : Byte) (s : State) : (release u s).1 ≠ .overflow := by
  rcases release_cases u s with ⟨hr, _⟩ | ⟨_, _, _, hr⟩ | ⟨_, _, _, _, hr⟩ <;> simp [hr]

theorem releaseAll_ne_overflow (s : State) : (releaseAll s).1 ≠ .overflow := by
  rcases releaseAll_cases s with ⟨_, hr⟩ | ⟨_, hr⟩ <;> simp [hr]

/-! ### An operation answered by its completion (R213) -/

/-- A completion leaves the guard free, whether or not a report was in flight (R213, R301). -/
theorem effect_txDoneK (s : State) : effect .txDoneK s = { s with inflight := s.inflight.set .k false } := by
  cases hk : s.inflight.k with
  | true => simp [effect, hk]
  | false =>
    have hfree : s.inflight.set .k false = s.inflight := by rw [← hk]; rfl
    simp [effect, hk, hfree]

/-- The state after the operation word `i` and the completion of the report it may have sent. -/
def answered (i : Instr) (s : State) : State :=
  effect .txDoneK (effect i s)

@[simp] theorem answered_kmod (i : Instr) (s : State) : (answered i s).kmod = (effect i s).kmod := by
  rw [answered, effect_txDoneK]

@[simp] theorem answered_kkey (i : Instr) (s : State) : (answered i s).kkey = (effect i s).kkey := by
  rw [answered, effect_txDoneK]

@[simp] theorem answered_raised (i : Instr) (s : State) : (answered i s).raised = (effect i s).raised := by
  rw [answered, effect_txDoneK]

@[simp] theorem answered_cfg (i : Instr) (s : State) : (answered i s).cfg = s.cfg := by
  rw [answered, (effect_keeps _ _).cfg, (effect_keeps _ _).cfg]

theorem keyOp_same (hop : isKeyOp i = true) (s : State) : SameOutsideKeyboard (effect i s) s := by
  cases i with
  | press u => exact press_same u s
  | release u => exact release_same u s
  | releaseAll => exact releaseAll_same s
  | _ => cases hop

/-- After the answer the decoder takes the next byte. -/
theorem answered_ready (hop : isKeyOp i = true) (hd : s.dstate = .first) : firstReady (answered i s) = true := by
  rw [answered, effect_txDoneK]
  exact firstReady_iff.mpr ⟨(keyOp_same hop s).dstate.trans hd, rfl⟩

theorem execAll_answered (hop : isKeyOp i = true) (hready : firstReady s = true) (rest : List Instr) :
    execAll (i :: .txDoneK :: rest) s = execAll rest (answered i s) := by
  have hi : exec i s = .next (effect i s) := exec_of_enabled ((enabled_keyOp hop s).trans hready)
  have hdone : exec .txDoneK (effect i s) = .next (answered i s) := exec_of_enabled rfl
  simp only [execAll, hi, hdone]

/-! ### RELEASE after PRESS (S7) -/

theorem clearModifier_setModifier {k : Byte} {b : BitVec 3} (h : k.getLsbD b.toNat = false) :
    clearModifier (setModifier k b) b = k := by
  apply BitVec.eq_of_getLsbD_eq
  intro n hn
  obtain ⟨j, rfl⟩ : ∃ j : BitVec 3, j.toNat = n := ⟨BitVec.ofNat 3 n, Nat.mod_eq_of_lt hn⟩
  rw [clearModifier_getLsbD, setModifier_getLsbD]
  by_cases hj : j.toNat = b.toNat
  · simp [hj, h]
  · simp [hj]

theorem set_slot_back {keys : Vector Byte 6} {j : Fin 6} {v : Byte} (h : keys[j] = v) (w : Byte) :
    (keys.set j w).set j v = keys := by
  subst h
  simp

/-- A code written to a slot is found there, where no other slot holds it. -/
theorem slotOf_set_new {keys : Vector Byte 6} (hnew : ∀ i : Fin 6, keys[i] ≠ u) (j : Fin 6) :
    slotOf (keys.set j u) u = some j := by
  refine slotOf_least (by rw [kkey_getElem_set, if_pos rfl]) fun i hi => ?_
  rw [kkey_getElem_set, if_neg (ne_of_gt hi)]
  exact hnew i

/-- RELEASE clears the bit, or the slot, that PRESS wrote. -/
theorem release_answered_press (hchanged : (press u s).1 = .changed) :
    (release u (answered (.press u) s)).2.kmod = s.kmod ∧ (release u (answered (.press u) s)).2.kkey = s.kkey ∧
      (release u (answered (.press u) s)).2.raised = s.raised := by
  rcases press_cases u s with ⟨hp, _⟩ | ⟨h0, hm, hb, hp⟩ | ⟨h0, hm, hnew, j, hj, hp⟩ | ⟨_, _, _, _, hp⟩
  · simp [hp] at hchanged
  · have hset : (answered (.press u) s).kmod.getLsbD (modBit s.cfg u).toNat = true := by
      simp [effect, hp, setModifier_getLsbD]
    rw [release_modifier_held h0 (by simpa using hm) (by simpa using hset)]
    simp [effect, hp, clearModifier_setModifier hb]
  · have hslot : slotOf (answered (.press u) s).kkey u = some j := by
      simpa [effect, hp] using slotOf_set_new hnew j
    rw [release_key_held h0 (by simpa using hm) hslot]
    simpa [effect, hp] using set_slot_back (slotOf_some hj) u
  · simp [hp] at hchanged

end Sys2Proof.Machine
end

section
/-! SUPPORT. The keys a report records (R174): what each operation adds to them or takes from them, and a list of the keys held
kept beside them through any sequence of operations. -/

namespace Sys2Proof.Machine

variable {s t : State} {u v : Byte} {i : Instr} {held : List Byte}

/-! ### The keys recorded -/

/-- The report records the code: its modifier bit is set, or a slot holds it. -/
def Recorded (s : State) (u : Byte) : Prop :=
  if isModifier s.cfg u then s.kmod.getLsbD (modBit s.cfg u).toNat = true else ∃ i : Fin 6, s.kkey[i] = u

theorem recorded_modifier (h : isModifier s.cfg u = true) :
    Recorded s u ↔ s.kmod.getLsbD (modBit s.cfg u).toNat = true := by
  rw [Recorded, if_pos h]

theorem recorded_key (h : isModifier s.cfg u = false) : Recorded s u ↔ ∃ i : Fin 6, s.kkey[i] = u := by
  rw [Recorded, if_neg (by simp [h])]

theorem modBit_eq_iff {c : Config} (hu : isModifier c u = true) (hv : isModifier c v = true) :
    (modBit c v).toNat = (modBit c u).toNat ↔ v = u :=
  ⟨modBit_inj hv hu, fun h => by rw [h]⟩

theorem ne_of_isModifier {c : Config} (hu : isModifier c u = true) (hv : isModifier c v = false) : v ≠ u := by
  rintro rfl
  simp [hu] at hv

theorem recorded_setModifier (hu : isModifier s.cfg u = true) (v : Byte) :
    Recorded { s with kmod := setModifier s.kmod (modBit s.cfg u) } v ↔ v = u ∨ Recorded s v := by
  cases hv : isModifier s.cfg v with
  | true => simp [Recorded, hv, setModifier_getLsbD, modBit_eq_iff hu hv, or_comm]
  | false => simp [Recorded, hv, ne_of_isModifier hu hv]

theorem recorded_clearModifier (hu : isModifier s.cfg u = true) (v : Byte) :
    Recorded { s with kmod := clearModifier s.kmod (modBit s.cfg u) } v ↔ Recorded s v ∧ v ≠ u := by
  cases hv : isModifier s.cfg v with
  | true => simp [Recorded, hv, clearModifier_getLsbD, modBit_eq_iff hu hv]
  | false => simp [Recorded, hv, ne_of_isModifier hu hv]

/-- A code written to an empty slot joins those recorded. -/
theorem recorded_setSlot {j : Fin 6} (hu : isModifier s.cfg u = false) (hj : s.kkey[j] = 0x00) (hv0 : v ≠ 0x00) :
    Recorded { s with kkey := s.kkey.set j u } v ↔ v = u ∨ Recorded s v := by
  cases hv : isModifier s.cfg v with
  | true => simp [Recorded, hv, (ne_of_isModifier hv hu).symm]
  | false =>
    simp only [Recorded, hv, Bool.false_eq_true, if_false, kkey_getElem_set]
    constructor
    · rintro ⟨i, hi⟩
      split_ifs at hi
      · exact .inl hi.symm
      · exact .inr ⟨i, hi⟩
    · rintro (rfl | ⟨i, hi⟩)
      · exact ⟨j, if_pos rfl⟩
      · have hji : j ≠ i := fun h => hv0 (by rw [← hi, ← h, hj])
        exact ⟨i, by rw [if_neg hji, hi]⟩

/-- A code stands in one slot only (R24), so clearing that slot forgets it and no other. -/
theorem recorded_clearSlot {j : Fin 6} (hinv : KeyboardInv s) (hu : isModifier s.cfg u = false) (hj : s.kkey[j] = u)
    (hv0 : v ≠ 0x00) : Recorded { s with kkey := s.kkey.set j 0x00 } v ↔ Recorded s v ∧ v ≠ u := by
  cases hv : isModifier s.cfg v with
  | true => simp [Recorded, hv, (ne_of_isModifier hv hu).symm]
  | false =>
    simp only [Recorded, hv, Bool.false_eq_true, if_false, kkey_getElem_set]
    obtain ⟨hdistinct, _⟩ := hinv
    constructor
    · rintro ⟨i, hi⟩
      split_ifs at hi with hji
      · exact absurd hi.symm hv0
      · refine ⟨⟨i, hi⟩, fun hvu => hji ?_⟩
        exact (hdistinct i j (by rwa [hi]) (by rw [hi, hj, hvu])).symm
    · rintro ⟨⟨i, hi⟩, hne⟩
      have hji : j ≠ i := fun h => hne (by rw [← hi, ← h, hj])
      exact ⟨i, by rw [if_neg hji, hi]⟩

theorem not_recorded_of_zero (hkmod : s.kmod = 0x00) (hkkey : ∀ i : Fin 6, s.kkey[i] = 0x00) (hv0 : v ≠ 0x00) :
    ¬ Recorded s v := by
  cases hv : isModifier s.cfg v with
  | true => rw [recorded_modifier hv]; simp [hkmod]
  | false =>
    rw [recorded_key hv]
    rintro ⟨i, hi⟩
    exact hv0 (hi.symm.trans (hkkey i))

/-! ### The keys held, as a list -/

/-- `held` lists the keys the report records, each once, and the report is one R24 allows. -/
structure HeldExactly (s : State) (held : List Byte) : Prop where
  keyboard : KeyboardInv s
  mem_iff : ∀ v : Byte, v ≠ 0x00 → (v ∈ held ↔ Recorded s v)
  nodup : held.Nodup
  nonzero : 0x00 ∉ held

theorem HeldExactly.showsHeld (h : HeldExactly s held) : ShowsHeld s held :=
  h.mem_iff

theorem HeldExactly.congr (h : HeldExactly s held) (hinv : KeyboardInv t)
    (hreport : ∀ v, Recorded t v ↔ Recorded s v) : HeldExactly t held :=
  ⟨hinv, fun v hv0 => (h.mem_iff v hv0).trans (hreport v).symm, h.nodup, h.nonzero⟩

theorem HeldExactly.add (h : HeldExactly s held) (hinv : KeyboardInv t) (h0 : u ≠ 0x00) (hnew : u ∉ held)
    (hreport : ∀ v, v ≠ 0x00 → (Recorded t v ↔ v = u ∨ Recorded s v)) : HeldExactly t (u :: held) where
  keyboard := hinv
  mem_iff v hv0 := by rw [List.mem_cons, hreport v hv0, h.mem_iff v hv0]
  nodup := List.nodup_cons.mpr ⟨hnew, h.nodup⟩
  nonzero := List.not_mem_cons_of_ne_of_not_mem h0.symm h.nonzero

theorem HeldExactly.remove (h : HeldExactly s held) (hinv : KeyboardInv t)
    (hreport : ∀ v, v ≠ 0x00 → (Recorded t v ↔ Recorded s v ∧ v ≠ u)) :
    HeldExactly t (held.filter fun v => v != u) where
  keyboard := hinv
  mem_iff v hv0 := by simp [hreport v hv0, h.mem_iff v hv0]
  nodup := h.nodup.filter _
  nonzero hmem := h.nonzero (List.mem_of_mem_filter hmem)

theorem HeldExactly.of_zero (hkmod : s.kmod = 0x00) (hkkey : ∀ i : Fin 6, s.kkey[i] = 0x00) : HeldExactly s [] where
  keyboard := keyboardInv_of_empty hkkey
  mem_iff v hv0 := by simp [not_recorded_of_zero hkmod hkkey hv0]
  nodup := List.nodup_nil
  nonzero := List.not_mem_nil

/-! ### Room for another key -/

/-- The keys held that take a slot. -/
def slotKeys (c : Config) (held : List Byte) : List Byte :=
  held.filter fun v => !isModifier c v

theorem HeldExactly.mem_slotKeys_iff (h : HeldExactly s held) :
    v ∈ slotKeys s.cfg held ↔ v ≠ 0x00 ∧ ∃ i : Fin 6, s.kkey[i] = v := by
  simp only [slotKeys, List.mem_filter, Bool.not_eq_true']
  constructor
  · rintro ⟨hmem, hv⟩
    have hv0 : v ≠ 0x00 := fun h0 => h.nonzero (h0 ▸ hmem)
    exact ⟨hv0, (recorded_key hv).mp ((h.mem_iff v hv0).mp hmem)⟩
  · rintro ⟨hv0, i, rfl⟩
    have hv := h.keyboard.2 i hv0
    exact ⟨(h.mem_iff _ hv0).mpr ((recorded_key hv).mpr ⟨i, rfl⟩), hv⟩

/-- Six full slots hold six different keys. -/
theorem HeldExactly.full (h : HeldExactly s held) (hfull : ∀ i : Fin 6, s.kkey[i] ≠ 0x00) :
    6 ≤ (slotKeys s.cfg held).length := by
  have hinj : Function.Injective fun i : Fin 6 => s.kkey[i] := fun i j hij => h.keyboard.1 i j (hfull i) hij
  have hsub : Finset.univ.image (fun i : Fin 6 => s.kkey[i]) ⊆ (slotKeys s.cfg held).toFinset := by
    intro v hv
    obtain ⟨i, _, rfl⟩ := Finset.mem_image.mp hv
    exact List.mem_toFinset.mpr (h.mem_slotKeys_iff.mpr ⟨hfull i, i, rfl⟩)
  calc 6 = (Finset.univ.image fun i : Fin 6 => s.kkey[i]).card := (Finset.card_image_of_injective Finset.univ hinj).symm
    _ ≤ (slotKeys s.cfg held).toFinset.card := Finset.card_le_card hsub
    _ ≤ (slotKeys s.cfg held).length := List.toFinset_card_le _

/-- With a slot empty, at most the five others hold a key. -/
theorem HeldExactly.room (h : HeldExactly s held) {j : Fin 6} (hj : s.kkey[j] = 0x00) :
    (slotKeys s.cfg held).length < 6 := by
  have hsub : (slotKeys s.cfg held).toFinset ⊆ (Finset.univ.erase j).image fun i : Fin 6 => s.kkey[i] := by
    intro v hv
    obtain ⟨hv0, i, rfl⟩ := h.mem_slotKeys_iff.mp (List.mem_toFinset.mp hv)
    have hij : i ≠ j := by
      rintro rfl
      exact hv0 hj
    exact Finset.mem_image_of_mem _ (Finset.mem_erase.mpr ⟨hij, Finset.mem_univ i⟩)
  calc (slotKeys s.cfg held).length = (slotKeys s.cfg held).toFinset.card :=
        (List.toFinset_card_of_nodup (h.nodup.filter _)).symm
    _ ≤ ((Finset.univ.erase j).image fun i : Fin 6 => s.kkey[i]).card := Finset.card_le_card hsub
    _ ≤ (Finset.univ.erase j).card := Finset.card_image_le
    _ < 6 := by simp

/-! ### The list through the operations -/

theorem heldAfter_press_known {c : Config} (h : u = 0x00 ∨ u ∈ held) : heldAfter c held (.press u) = held :=
  if_pos h

theorem heldAfter_press_new {c : Config} (h0 : u ≠ 0x00) (hnew : u ∉ held)
    (hroom : isModifier c u = true ∨ (slotKeys c held).length < 6) : heldAfter c held (.press u) = u :: held := by
  rw [heldAfter, if_neg (not_or.mpr ⟨h0, hnew⟩)]
  split_ifs with hm hlength
  · rfl
  · rfl
  · exact absurd (hroom.resolve_left hm) hlength

theorem heldAfter_press_dropped {c : Config} (hm : isModifier c u = false) (hfull : 6 ≤ (slotKeys c held).length) :
    heldAfter c held (.press u) = held := by
  rw [heldAfter]
  split_ifs with hknown hm' hlength
  · rfl
  · simp [hm] at hm'
  · exact absurd hlength (Nat.not_lt.mpr hfull)
  · rfl

theorem press_heldExactly (u : Byte) (h : HeldExactly s held) :
    HeldExactly (press u s).2 (heldAfter s.cfg held (.press u)) := by
  have hinv : KeyboardInv (press u s).2 := press_keyboardInv u h.keyboard
  rcases press_cases u s with ⟨hp, hknown⟩ | ⟨h0, hm, hb, hp⟩ | ⟨h0, hm, hnew, j, hj, hp⟩ | ⟨_, hm, _, hfull, hp⟩ <;>
    rw [hp] at hinv ⊢
  · have hmem : u = 0x00 ∨ u ∈ held := by
      refine or_iff_not_imp_left.mpr fun h0 => (h.mem_iff u h0).mpr ?_
      rcases hknown.resolve_left h0 with ⟨hm, hb⟩ | ⟨hm, hi⟩
      · exact (recorded_modifier hm).mpr hb
      · exact (recorded_key hm).mpr hi
    rw [heldAfter_press_known hmem]
    exact h
  · have hnot : u ∉ held := by simp [h.mem_iff u h0, recorded_modifier hm, hb]
    rw [heldAfter_press_new h0 hnot (.inl hm)]
    exact h.add hinv h0 hnot fun v _ => recorded_setModifier hm v
  · have hnot : u ∉ held := by simpa [h.mem_iff u h0, recorded_key hm] using hnew
    rw [heldAfter_press_new h0 hnot (.inr (h.room (slotOf_some hj)))]
    exact h.add hinv h0 hnot fun v hv0 => recorded_setSlot hm (slotOf_some hj) hv0
  · rw [heldAfter_press_dropped hm (h.full hfull)]
    exact h.congr hinv fun v => Iff.rfl

theorem release_heldExactly (u : Byte) (h : HeldExactly s held) :
    HeldExactly (release u s).2 (heldAfter s.cfg held (.release u)) := by
  have hinv : KeyboardInv (release u s).2 := release_keyboardInv u h.keyboard
  refine h.remove hinv fun v hv0 => ?_
  rcases release_cases u s with ⟨hr, hup⟩ | ⟨_, hm, _, hr⟩ | ⟨_, hm, j, hj, hr⟩ <;> rw [hr]
  · have hnot : Recorded s v → v ≠ u := by
      rintro hv rfl
      rcases hup with h0 | ⟨hm, hb⟩ | ⟨hm, hnone⟩
      · exact hv0 h0
      · simp [recorded_modifier hm, hb] at hv
      · obtain ⟨i, hi⟩ := (recorded_key hm).mp hv
        exact hnone i hi
    exact (and_iff_left_of_imp hnot).symm
  · exact recorded_clearModifier hm v
  · exact recorded_clearSlot h.keyboard hm (slotOf_some hj) hv0

theorem releaseAll_heldExactly (s : State) : HeldExactly (releaseAll s).2 [] := by
  rcases releaseAll_cases s with ⟨hzero, hr⟩ | ⟨_, hr⟩ <;> rw [hr]
  · obtain ⟨hkmod, hkkey⟩ := allReleased_iff_slots.mp hzero
    exact .of_zero hkmod hkkey
  · exact .of_zero rfl (kkey_eq_replicate_iff.mp rfl)

theorem answered_heldExactly (hop : isKeyOp i = true) (h : HeldExactly s held) :
    HeldExactly (answered i s) (heldAfter s.cfg held i) := by
  have hop' : HeldExactly (effect i s) (heldAfter s.cfg held i) := by
    cases i with
    | press u => exact press_heldExactly u h
    | release u => exact release_heldExactly u h
    | releaseAll => exact releaseAll_heldExactly s
    | _ => cases hop
  have hdone : answered i s = { effect i s with inflight := (effect i s).inflight.set .k false } := effect_txDoneK _
  rw [hdone]
  exact hop'.congr hop'.keyboard fun v => Iff.rfl

/-- Every sequence of operations, each answered, keeps the list of keys held beside the report (R174). -/
theorem execAll_heldExactly {ops : List Instr} (hops : ∀ i ∈ ops, isKeyOp i = true) (hready : firstReady s = true)
    (h : HeldExactly s held) :
    ∃ t, execAll (ops.flatMap fun i => [i, .txDoneK]) s = .next t ∧
      HeldExactly t (ops.foldl (heldAfter s.cfg) held) := by
  induction ops generalizing s held with
  | nil => exact ⟨s, rfl, h⟩
  | cons i ops ih =>
    have hop : isKeyOp i = true := hops i List.mem_cons_self
    obtain ⟨t, hrun, ht⟩ := ih (fun j hj => hops j (List.mem_cons_of_mem i hj))
      (answered_ready hop (firstReady_iff.mp hready).1) (answered_heldExactly hop h)
    rw [answered_cfg] at ht
    exact ⟨t, (execAll_answered hop hready _).trans hrun, ht⟩

end Sys2Proof.Machine
end

section
/-! SUPPORT. The port an event comes from (R81), and which events write the keyboard report and the host's registers (R175,
R270). -/

namespace Sys2Proof.Machine

variable {s : State} {i : Instr}

/-! ### The port of an event -/

theorem lineByte_port (c : Config) (h : isLineByte i = true) : (encode c i).port = .krx := by
  cases i with
  | resetAck | layoutResp | selftestFail | idle | keyDown | keyUp | krxOperand => rfl
  | _ => cases h

theorem pointerOp_port (c : Config) (h : isPointerOp i = true) : (encode c i).port = .pop := by
  cases i with
  | move | setButtons | buttonPress | buttonRelease => rfl
  | _ => cases h

theorem request_port (c : Config) (h : isRequest i = true) : (encode c i).port = .ctl := by
  cases i with
  | getReport | getIdle | getProtocol | setReport | setIdle | setProtocol | reject => rfl
  | _ => cases h

theorem decodePop_isPointerOp (w : BitVec 34) : isPointerOp (decodePop w) = true := by
  simp only [decodePop]
  repeat' split
  all_goals rfl

/-- Whatever a frame decodes to is an instruction of the frame's port. -/
theorem decode_port {c : Config} {d : DState} {f : Frame} (h : decode c d f = .ok i) : (encode c i).port = f.port := by
  cases f with
  | krx b =>
    obtain rfl := Except.ok.inj h
    exact lineByte_port c (isLineByte_decodeKrx c d b)
  | pop w =>
    obtain rfl := Except.ok.inj h
    exact pointerOp_port c (decodePop_isPointerOp w)
  | ctl w data =>
    obtain rfl := Except.ok.inj h
    exact request_port c (decodeCtl_isRequest c w data)
  | _ =>
    simp only [decode, decodeKop, decodeStrobe, decodeAct, decodeKrpt, decodePrpt, decodeMask] at h
    repeat' split at h
    all_goals cases h
    all_goals rfl

/-! ### The registers an event writes (R40) -/

/-- The keyboard report is in the decoder's column and RESET's, and of the decoder's events only a byte of the line
writes it. -/
theorem effect_keyboardReport (hevent : i.isEvent = true) (hline : isLineByte i = false) (hreset : i ≠ .reset) :
    (effect i s).kmod = s.kmod ∧ (effect i s).kkey = s.kkey := by
  have hcolumn := (effect_writes i s).column
  cases ha : agentOf i <;> rw [ha, OwnColumn] at hcolumn
  case decoder =>
    cases i with
    | settle | krxFail => exact ⟨rfl, rfl⟩
    | press | release | releaseAll | cmdReset | kbdReport => cases hevent
    | resetAck | layoutResp | selftestFail | idle | keyDown | keyUp | krxOperand => cases hline
    | _ => cases ha
  case pointer | control | completion | mapper => rw [hcolumn]; exact ⟨rfl, rfl⟩
  case reset => exact absurd (eq_reset_of_agentOf ha) hreset

/-- An event that changes the keyboard report is a byte of the line or RESET (R175). -/
theorem keyboardReport_port (c : Config) (hevent : i.isEvent = true)
    (hchange : (effect i s).kmod ≠ s.kmod ∨ (effect i s).kkey ≠ s.kkey) :
    (encode c i).port = .krx ∨ (encode c i).port = .rst := by
  by_cases hreset : i = .reset
  · exact .inr (by rw [hreset]; rfl)
  cases hline : isLineByte i with
  | true => exact .inl (lineByte_port c hline)
  | false =>
    obtain ⟨hkmod, hkkey⟩ := effect_keyboardReport (s := s) hevent hline hreset
    exact absurd hchange (by simp [hkmod, hkkey])

/-- The host's registers are in the control context's column and RESET's. -/
theorem effect_hostRegisters (hcontrol : agentOf i ≠ .control) (hreset : i ≠ .reset) :
    (effect i s).idle = s.idle ∧ (effect i s).proto = s.proto ∧ (effect i s).oled = s.oled := by
  have hcolumn := (effect_writes i s).column
  cases ha : agentOf i <;> rw [ha, OwnColumn] at hcolumn
  case decoder | pointer | completion | mapper => rw [hcolumn]; exact ⟨rfl, rfl, rfl⟩
  case control => exact absurd ha hcontrol
  case reset => exact absurd (eq_reset_of_agentOf ha) hreset

theorem control_port (c : Config) (hevent : i.isEvent = true) (ha : agentOf i = .control) :
    (encode c i).port = .ctl ∨ (encode c i).port = .act := by
  cases i with
  | getReport | getIdle | getProtocol | setReport | setIdle | setProtocol | reject => exact .inl rfl
  | activate e => cases e <;> exact .inr rfl
  | cmdLeds | outputReport | sunLedMask => cases hevent
  | _ => cases ha

/-- An event that changes the host's registers is a request, an activation or RESET (R270). -/
theorem hostRegisters_port (c : Config) (hevent : i.isEvent = true)
    (hchange : (effect i s).idle ≠ s.idle ∨ (effect i s).proto ≠ s.proto ∨ (effect i s).oled ≠ s.oled) :
    (encode c i).port = .ctl ∨ (encode c i).port = .act ∨ (encode c i).port = .rst := by
  by_cases hreset : i = .reset
  · exact .inr (.inr (by rw [hreset]; rfl))
  by_cases hcontrol : agentOf i = .control
  · exact (control_port c hevent hcontrol).imp_right .inl
  · obtain ⟨hidle, hproto, holed⟩ := effect_hostRegisters (s := s) hcontrol hreset
    exact absurd hchange (by simp [hidle, hproto, holed])

/-- No enabling condition looks at what else is offered. -/
theorem enabled_pending (i : Instr) (s : State) (rest : List Frame) :
    enabled i { s with pending := rest } = enabled i s := by
  cases i <;> rfl

/-- A step on offered events changes nothing, or takes a frame and has the effect of that frame's event. -/
theorem step_effect {t : State} (hprobe : s.probe = none) (hstep : step s = .next t) :
    t = s ∨ ∃ f rest i, pick s [] s.pending = some (f, rest) ∧ i.isEvent = true ∧ (encode s.cfg i).port = f.port ∧
      t = effect i { s with pending := rest } := by
  rcases step_cases hstep with ⟨_, _, hsame⟩ | ⟨_, f, rest, i, hpick, hdecode, hexec⟩ | ⟨f, _, hplaced, _⟩
  · exact .inl hsame
  · have hready := (pick_some hpick).1
    rw [frameReady_ok hdecode, Bool.and_eq_true] at hready
    rw [exec_of_enabled ((enabled_pending i s rest).trans hready.2), Host.Outcome.next.injEq] at hexec
    exact .inr ⟨f, rest, i, hpick, pick_isEvent hpick hdecode, decode_port hdecode, hexec.symm⟩
  · simp [hprobe] at hplaced

end Sys2Proof.Machine
end

section
/-! THE STATEMENTS OF 42_keyboard_report.md: PRESS, RELEASE and RELEASE_ALL case by case (R171 to R173), when they transmit
(R170), the keys held (R174), and the owners of the registers (R175, R270). -/

namespace Sys2Proof.Machine

/-- Settles O32: the list of keys held and the report start empty, and every operation keeps them equal. -/
theorem reportShowsTheHeldKeys : Obligations.ReportShowsTheHeldKeys := by
  intro s ops _ hkmod hkkey hd hk hops
  have hready : firstReady s = true := firstReady_iff.mpr ⟨hd, hk⟩
  obtain ⟨t, hrun, ht⟩ := execAll_heldExactly hops hready (.of_zero hkmod hkkey)
  exact ⟨t, hrun, ht.showsHeld⟩

/-- Settles O28, from PRESS's outcome in each case; a modifier's bit is its distance from `MOD_BASE`. -/
theorem pressRecordsTheKey : Obligations.PressRecordsTheKey := by
  intro s u hd hk base modifier bit
  have hexec : exec (.press u) s = .next (press u s).2 :=
    exec_of_enabled (i := .press u) (firstReady_iff.mpr ⟨hd, hk⟩)
  have hmodifier : modifier → isModifier s.cfg u = true := isModifier_iff.mpr
  have hkey : ¬ modifier → isModifier s.cfg u = false := isModifier_eq_false
  have hbit (hm : modifier) : (modBit s.cfg u).toNat = bit := modBit_toNat (hmodifier hm)
  refine ⟨?zero, ?modifierHeld, ?modifierNew, ?keyHeld, ?keyNew, ?keyFull⟩
  case zero =>
    rintro rfl
    exact outcome_of_eq hexec (press_zero s)
  case modifierHeld =>
    intro _ hm hb
    exact outcome_of_eq hexec (press_modifier_held (hmodifier hm) (by rwa [hbit hm]))
  case modifierNew =>
    intro h0 hm hb
    refine outcome_of_eq hexec ?_
    rw [press_modifier_new h0 (hmodifier hm) (by rwa [hbit hm]), setModifier, hbit hm]
    rfl
  case keyHeld =>
    rintro _ hm ⟨i, hi⟩
    exact outcome_of_eq hexec (press_key_held (hkey hm) hi)
  case keyNew =>
    intro h0 hm hnew j hj hleast
    exact outcome_of_eq hexec (press_key_new h0 (hkey hm) hnew (slotOf_least hj hleast))
  case keyFull =>
    intro h0 hm hnew hfull
    exact outcome_of_eq hexec (press_key_full h0 (hkey hm) hnew hfull)

/-- Settles O29, from RELEASE's outcome in each case; the least slot that holds the code is the one cleared. -/
theorem releaseForgetsTheKey : Obligations.ReleaseForgetsTheKey := by
  intro s u hd hk base modifier bit
  have hexec : exec (.release u) s = .next (release u s).2 :=
    exec_of_enabled (i := .release u) (firstReady_iff.mpr ⟨hd, hk⟩)
  have hmodifier : modifier → isModifier s.cfg u = true := isModifier_iff.mpr
  have hkey : ¬ modifier → isModifier s.cfg u = false := isModifier_eq_false
  have hbit (hm : modifier) : (modBit s.cfg u).toNat = bit := modBit_toNat (hmodifier hm)
  refine ⟨?zero, ?modifierUp, ?modifierHeld, ?keyUp, ?keyHeld⟩
  case zero =>
    rintro rfl
    exact outcome_of_eq hexec (release_zero s)
  case modifierUp =>
    intro _ hm hb
    exact outcome_of_eq hexec (release_modifier_up (hmodifier hm) (by rwa [hbit hm]))
  case modifierHeld =>
    intro h0 hm hb
    refine outcome_of_eq hexec ?_
    rw [release_modifier_held h0 (hmodifier hm) (by rwa [hbit hm]), clearModifier, hbit hm]
    rfl
  case keyUp =>
    intro _ hm hnone
    exact outcome_of_eq hexec (release_key_up (hkey hm) hnone)
  case keyHeld =>
    intro h0 hm j hj hleast
    exact outcome_of_eq hexec (release_key_held h0 (hkey hm) (slotOf_least hj hleast))

/-- Settles O30: RELEASE_ALL transmits the zero report once, unless the report is zero already. -/
theorem releaseAllZeroesTheReport : Obligations.ReleaseAllZeroesTheReport := by
  intro s hd hk
  have hexec : exec .releaseAll s = .next (releaseAll s).2 :=
    exec_of_enabled (i := .releaseAll) (firstReady_iff.mpr ⟨hd, hk⟩)
  rw [← allReleased_iff_slots]
  rcases releaseAll_cases s with ⟨hzero, hrelease⟩ | ⟨hpressed, hrelease⟩
  · exact ⟨fun _ => outcome_of_eq hexec hrelease, fun hnot => absurd hzero hnot⟩
  · exact ⟨fun hzero => by simp [hpressed] at hzero, fun _ => outcome_of_eq hexec hrelease⟩

/-- Settles O31: a modifier's bit and a slot are written only with a value they do not hold. -/
theorem onlyAChangeTransmits : Obligations.OnlyAChangeTransmits := by
  rintro s r (⟨u, rfl | rfl⟩ | rfl)
  · obtain ⟨hchanged, hother⟩ := press_transmitsChangeOnly u s
    exact ⟨hchanged, hother, fun _ => ⟨u, rfl⟩⟩
  · obtain ⟨hchanged, hother⟩ := release_transmitsChangeOnly u s
    exact ⟨hchanged, hother, fun h => absurd h (release_ne_overflow u s)⟩
  · obtain ⟨hchanged, hother⟩ := releaseAll_transmitsChangeOnly s
    exact ⟨hchanged, hother, fun h => absurd h (releaseAll_ne_overflow s)⟩

/-- Settles O33: RELEASE clears what PRESS wrote, and what PRESS writes does not depend on the decoder or the guard. -/
theorem releaseUndoesPress : Obligations.ReleaseUndoesPress := by
  intro s u _ hchanged
  let ready : State := { s with dstate := .first, inflight := ⟨false, s.inflight.p⟩ }
  have hchanged' : (press u ready).1 = .changed := (press_status_congr (t := ready) (s := s) rfl rfl rfl).trans hchanged
  have hpress : exec (.press u) ready = .next (effect (.press u) ready) := exec_of_enabled rfl
  have hdone : exec .txDoneK (effect (.press u) ready) = .next (answered (.press u) ready) := exec_of_enabled rfl
  have hrelease : exec (.release u) (answered (.press u) ready) = .next (release u (answered (.press u) ready)).2 :=
    exec_of_enabled (i := .release u) (answered_ready rfl rfl)
  exact ⟨_, _, _, hpress, hdone, hrelease, release_answered_press hchanged'⟩

/-- Settles O34: a step has the effect of the event it takes, the frame taken stands on that event's port, and the registers an
event changes tell its port. -/
theorem onlyTheOwnersPortChangesAReport : Obligations.OnlyTheOwnersPortChangesAReport := by
  intro s t hprobe hstep
  rcases step_effect hprobe hstep with rfl | ⟨f, rest, i, hpick, hevent, hport, rfl⟩
  · simp
  · exact ⟨fun hchange => ⟨f, rest, hpick, hport ▸ keyboardReport_port s.cfg hevent hchange⟩,
      fun hchange => ⟨f, rest, hpick, hport ▸ hostRegisters_port s.cfg hevent hchange⟩⟩

end Sys2Proof.Machine
end

section
/-! SUPPORT. The pointer operations case by case (R191 to R194): the report a MOVE sends, a button operation as a MOVE of zero
deltas over the changed buttons, and the condition that enables them all (R190). -/

namespace Sys2Proof.Machine

variable {s : State} {n : Byte} {i : Instr}

/-! ### MOVE (R191) -/

/-- A delta its build lacks does not reach the report (R28), so the report does not show whether it was written. -/
theorem ptrBytes_of_build (c : Config) (btn : BitVec 3) (dx dy wheel pan wheel' pan' : Byte) :
    ptrBytes c btn dx dy (if c.hasWheel then wheel else wheel') (if c.hasPan then pan else pan') =
      ptrBytes c btn dx dy wheel pan := by
  cases hw : c.hasWheel <;> cases hp : c.hasPan <;> simp [ptrBytes, hw, hp]

/-- MOVE writes the deltas its build has and sends the report that carries them. -/
theorem move_eq (dx dy wheel pan : Byte) (s : State) :
    move dx dy wheel pan s = (.changed,
      { s with
        pdx := dx
        pdy := dy
        pwheel := if s.cfg.hasWheel then wheel else s.pwheel
        ppan := if s.cfg.hasPan then pan else s.ppan
        outs := s.outs ++ [.prpt (ptrBytes s.cfg s.pbtn dx dy wheel pan ++
          List.replicate (s.cfg.ptrLen - s.cfg.ptrUsed) 0x00)]
        inflight := s.inflight.set .p true }) := by
  rw [move, transmitP, pointerReport, ptrBytes_of_build]

/-! ### The button operations (R193, R194) -/

theorem isButton_iff : isButton n = true ↔ n = 1 ∨ n = 2 ∨ n = 3 := by
  simp [isButton, or_assoc]

theorem isButton_eq_false (h : ¬ (n = 1 ∨ n = 2 ∨ n = 3)) : isButton n = false :=
  Bool.eq_false_iff.mpr fun hn => h (isButton_iff.mp hn)

/-- Zeroing the deltas and transmitting is a MOVE of zero deltas. -/
theorem buttonPress_button (h : isButton n = true) :
    buttonPress n s = move 0x00 0x00 0x00 0x00 { s with pbtn := s.pbtn ||| buttonBit n } :=
  if_pos h

theorem buttonPress_other (h : isButton n = false) : buttonPress n s = (.noop, s) :=
  if_neg (by simp [h])

theorem buttonRelease_button (h : isButton n = true) :
    buttonRelease n s = move 0x00 0x00 0x00 0x00 { s with pbtn := s.pbtn &&& ~~~buttonBit n } :=
  if_pos h

theorem buttonRelease_other (h : isButton n = false) : buttonRelease n s = (.noop, s) :=
  if_neg (by simp [h])

/-! ### The condition and the status of a pointer operation (R190) -/

theorem enabled_pointerOp (h : isPointerOp i = true) (s : State) : enabled i s = popReady s := by
  cases i with
  | move | setButtons | buttonPress | buttonRelease => rfl
  | _ => cases h

theorem move_ne_overflow (dx dy wheel pan : Byte) (s : State) : (move dx dy wheel pan s).1 ≠ .overflow := by
  simp [move]

theorem setButtons_ne_overflow (mask : BitVec 3) (s : State) : (setButtons mask s).1 ≠ .overflow := by
  simp [setButtons]

theorem buttonPress_ne_overflow (n : Byte) (s : State) : (buttonPress n s).1 ≠ .overflow := by
  cases h : isButton n with
  | true => rw [buttonPress_button h]; exact move_ne_overflow _ _ _ _ _
  | false => simp [buttonPress_other h]

theorem buttonRelease_ne_overflow (n : Byte) (s : State) : (buttonRelease n s).1 ≠ .overflow := by
  cases h : isButton n with
  | true => rw [buttonRelease_button h]; exact move_ne_overflow _ _ _ _ _
  | false => simp [buttonRelease_other h]

end Sys2Proof.Machine
end

section
/-! THE STATEMENTS OF 43_pointer_report.md: MOVE, SET_BUTTONS, BUTTON_PRESS and BUTTON_RELEASE (R191 to R194), and what holds of
every pointer operation (R190). -/

namespace Sys2Proof.Machine

/-- Settles O37: the press of a button is a MOVE of zero deltas over the buttons with its bit set. -/
theorem buttonPressTransmits : Obligations.ButtonPressTransmits := by
  intro s n hp
  have hexec : exec (.buttonPress n) s = .next (buttonPress n s).2 :=
    exec_of_enabled (i := .buttonPress n) (popReady_iff.mpr hp)
  refine ⟨fun hbutton => ?button, fun hother => ?other⟩
  case button =>
    rw [hexec, buttonPress_button (isButton_iff.mpr hbutton), move_eq]
    rfl
  case other => rw [hexec, buttonPress_other (isButton_eq_false hother)]

/-- Settles O38: the release of a button is a MOVE of zero deltas over the buttons with its bit clear. -/
theorem buttonReleaseTransmits : Obligations.ButtonReleaseTransmits := by
  intro s n hp
  have hexec : exec (.buttonRelease n) s = .next (buttonRelease n s).2 :=
    exec_of_enabled (i := .buttonRelease n) (popReady_iff.mpr hp)
  refine ⟨fun hbutton => ?button, fun hother => ?other⟩
  case button =>
    rw [hexec, buttonRelease_button (isButton_iff.mpr hbutton), move_eq]
    rfl
  case other => rw [hexec, buttonRelease_other (isButton_eq_false hother)]

/-- Settles O39: the guard alone enables a pointer operation, and with the guard free the block's invariant has the deltas
zero. -/
theorem pointerOperationsWaitForTheGuard : Obligations.PointerOperationsWaitForTheGuard := by
  intro s i hop
  have henabled : enabled i s = true ↔ s.inflight.p = false := by
    rw [enabled_pointerOp hop]
    exact popReady_iff
  refine ⟨henabled, fun ⟨_, _, hpointer, _, _⟩ he => hpointer (henabled.mp he), ?_⟩
  exact ⟨fun dx dy wheel pan => move_ne_overflow dx dy wheel pan s, fun m => setButtons_ne_overflow m s,
    fun n => ⟨buttonPress_ne_overflow n s, buttonRelease_ne_overflow n s⟩⟩

/-- Settles O35, from what MOVE writes and sends. -/
theorem moveSendsItsDeltas : Obligations.MoveSendsItsDeltas := by
  intro s dx dy wheel pan hp
  have hexec : exec (.move dx dy wheel pan) s = .next (move dx dy wheel pan s).2 :=
    exec_of_enabled (i := .move dx dy wheel pan) (popReady_iff.mpr hp)
  rw [hexec, move_eq]
  rfl

/-- Settles O36: the word's other operand bits are not read, and the operation writes the buttons alone. -/
theorem setButtonsNeverTransmits : Obligations.SetButtonsNeverTransmits := by
  intro s m b c d hp
  constructor
  · exact congrArg Except.ok (decodePop_word 1#2 m (b ++ (c ++ d)))
  · exact exec_of_enabled (i := .setButtons (m.extractLsb' 0 3)) (popReady_iff.mpr hp)

end Sys2Proof.Machine
end

section
/-! SUPPORT. A report is sent only while its endpoint's guard is free, and takes the guard (R210 to R212): so the reports sent and
the one a free guard still allows are conserved by every event but the endpoint's completion and RESET. -/

namespace Sys2Proof.Machine

variable {s t u : State} {i : Instr} {e : Endpoint}

/-! ### The reports sent and the one the guard still allows -/

/-- The number of reports of an endpoint emitted so far. -/
def reportsSent (e : Endpoint) (s : State) : Nat :=
  match e with
  | .k => kbdReports s
  | .p => ptrReports s

/-- The reports of an endpoint emitted so far, and the one more that may leave while its guard is free. -/
def reportsAllowed (e : Endpoint) (s : State) : Nat :=
  reportsSent e s + bif s.inflight.get e then 0 else 1

/-- An output that is a report of either endpoint. -/
def Output.isReport : Output → Bool
  | .krpt _ | .prpt _ => true
  | _ => false

/-! The count reads the outputs and the guards alone, so each operation is followed from any state `u` that agrees on them. -/

theorem reportsAllowed_congr (houts : u.outs = s.outs) (hguard : u.inflight.get e = s.inflight.get e) :
    reportsAllowed e u = reportsAllowed e s := by
  cases e <;> simp [reportsAllowed, reportsSent, kbdReports, ptrReports, houts, hguard]

theorem emit_reportsAllowed {o : Output} (ho : o.isReport = false) (houts : u.outs = s.outs)
    (hguard : u.inflight = s.inflight) : reportsAllowed e (emit o u) = reportsAllowed e s := by
  cases o with
  | krpt | prpt => cases ho
  | _ => cases e <;> simp [reportsAllowed, reportsSent, kbdReports, ptrReports, houts, hguard]

/-- The report sent is the one the free guard allowed; the other endpoint's count is not touched. -/
theorem transmitK_reportsAllowed (hfree : s.inflight.k = false) (houts : u.outs = s.outs)
    (hguard : u.inflight = s.inflight) : reportsAllowed e (transmitK u) = reportsAllowed e s := by
  cases e <;> simp [reportsAllowed, reportsSent, kbdReports, ptrReports, hfree, houts, hguard]

/-- The mirror of `transmitK_reportsAllowed`. -/
theorem transmitP_reportsAllowed (hfree : s.inflight.p = false) (houts : u.outs = s.outs)
    (hguard : u.inflight = s.inflight) : reportsAllowed e (transmitP u) = reportsAllowed e s := by
  cases e <;> simp [reportsAllowed, reportsSent, kbdReports, ptrReports, hfree, houts, hguard]

/-! ### The keyboard line -/

theorem press_reportsAllowed (hfree : s.inflight.k = false) (code : Byte) :
    reportsAllowed e (press code s).2 = reportsAllowed e s := by
  rcases press_cases code s with ⟨h, _⟩ | ⟨_, _, _, h⟩ | ⟨_, _, _, j, _, h⟩ | ⟨_, _, _, _, h⟩ <;> rw [h]
  · exact transmitK_reportsAllowed hfree rfl rfl
  · exact transmitK_reportsAllowed hfree rfl rfl
  · exact reportsAllowed_congr rfl rfl

theorem release_reportsAllowed (hfree : s.inflight.k = false) (code : Byte) :
    reportsAllowed e (release code s).2 = reportsAllowed e s := by
  rcases release_cases code s with ⟨h, _⟩ | ⟨_, _, _, h⟩ | ⟨_, _, j, _, h⟩ <;> rw [h]
  · exact transmitK_reportsAllowed hfree rfl rfl
  · exact transmitK_reportsAllowed hfree rfl rfl

theorem releaseAll_reportsAllowed (hfree : s.inflight.k = false) :
    reportsAllowed e (releaseAll s).2 = reportsAllowed e s := by
  rcases releaseAll_cases s with ⟨_, h⟩ | ⟨_, h⟩ <;> rw [h]
  exact transmitK_reportsAllowed hfree rfl rfl

theorem takeByte_reportsAllowed {b : Byte} {form : State → State}
    (h : reportsAllowed e (form s) = reportsAllowed e s) :
    reportsAllowed e (takeByte b form s) = reportsAllowed e s := by
  rcases takeByte_cases b form s with ⟨_, htake⟩ | ⟨_, htake⟩ <;> rw [htake]
  · exact reportsAllowed_congr rfl rfl
  · exact h

theorem keyTransition_reportsAllowed {b : Byte} {op : Byte → State → Status × State}
    (h : ∀ code, reportsAllowed e (op code s).2 = reportsAllowed e s) :
    reportsAllowed e (keyTransition b op s) = reportsAllowed e s := by
  rcases keyTransition_cases b op s with hkey | ⟨code, hkey⟩ <;> rw [hkey]
  · exact reportsAllowed_congr rfl rfl
  · exact h code

/-- A byte of the line sends at most the one report the free guard allows (R154). -/
theorem lineByte_reportsAllowed (hline : isLineByte i = true) (hfree : s.inflight.k = false) :
    reportsAllowed e (effect i s) = reportsAllowed e s := by
  cases i with
  | resetAck | layoutResp | selftestFail => exact takeByte_reportsAllowed (reportsAllowed_congr rfl rfl)
  | idle =>
    rw [effect]
    exact takeByte_reportsAllowed (releaseAll_reportsAllowed hfree)
  | keyDown sc =>
    exact takeByte_reportsAllowed (keyTransition_reportsAllowed (press_reportsAllowed hfree))
  | keyUp sc =>
    exact takeByte_reportsAllowed (keyTransition_reportsAllowed (release_reportsAllowed hfree))
  | krxOperand v =>
    rw [effect]
    refine takeByte_reportsAllowed ?_
    split <;> exact reportsAllowed_congr rfl rfl
  | _ => cases hline

/-! ### Every agent -/

theorem decoder_reportsAllowed (ha : agentOf i = .decoder) (he : enabled i s = true) :
    reportsAllowed e (effect i s) = reportsAllowed e s := by
  cases i with
  | resetAck | layoutResp | selftestFail | idle | keyDown | keyUp | krxOperand =>
    exact lineByte_reportsAllowed rfl (krxReady_iff.mp (krxReady_of_lineByte rfl he)).2
  | press u => exact press_reportsAllowed (firstReady_iff.mp he).2 u
  | release u => exact release_reportsAllowed (firstReady_iff.mp he).2 u
  | releaseAll => exact releaseAll_reportsAllowed (firstReady_iff.mp he).2
  | kbdReport =>
    rw [enabled, Bool.and_eq_true, Bool.not_eq_true'] at he
    exact transmitK_reportsAllowed he.1 rfl rfl
  | settle | cmdReset | krxFail => exact reportsAllowed_congr rfl rfl
  | _ => cases ha

theorem move_reportsAllowed {dx dy wheel pan : Byte} (hfree : s.inflight.p = false) (houts : u.outs = s.outs)
    (hguard : u.inflight = s.inflight) : reportsAllowed e (move dx dy wheel pan u).2 = reportsAllowed e s :=
  transmitP_reportsAllowed hfree houts hguard

theorem pointer_reportsAllowed (ha : agentOf i = .pointer) (he : enabled i s = true) :
    reportsAllowed e (effect i s) = reportsAllowed e s := by
  cases i with
  | move dx dy wheel pan => exact move_reportsAllowed (popReady_iff.mp he) rfl rfl
  | setButtons => exact reportsAllowed_congr rfl rfl
  | buttonPress n =>
    rw [effect]
    cases hn : isButton n with
    | true => rw [buttonPress_button hn]; exact move_reportsAllowed (popReady_iff.mp he) rfl rfl
    | false => rw [buttonPress_other hn]
  | buttonRelease n =>
    rw [effect]
    cases hn : isButton n with
    | true => rw [buttonRelease_button hn]; exact move_reportsAllowed (popReady_iff.mp he) rfl rfl
    | false => rw [buttonRelease_other hn]
  | ptrReport =>
    rw [enabled, Bool.and_eq_true, Bool.not_eq_true'] at he
    exact transmitP_reportsAllowed he.1 rfl rfl
  | _ => cases ha

/-- The control context answers requests and queues LED commands; no report of either endpoint leaves. -/
theorem control_reportsAllowed (ha : agentOf i = .control) : reportsAllowed e (effect i s) = reportsAllowed e s := by
  cases i with
  | activate | cmdLeds => exact reportsAllowed_congr rfl rfl
  | getReport | getIdle | getProtocol | setReport | setIdle | setProtocol | reject | outputReport | sunLedMask =>
    exact emit_reportsAllowed rfl rfl rfl
  | _ => cases ha

/-- The completion of an endpoint's report (R213). -/
def completionOf : Endpoint → Instr
  | .k => .txDoneK
  | .p => .txDoneP

/-- A completion frees the guard of its own endpoint alone. -/
theorem completion_reportsAllowed (ha : agentOf i = .completion) (hdone : i ≠ completionOf e) :
    reportsAllowed e (effect i s) = reportsAllowed e s := by
  cases i with
  | ktxAccept =>
    rw [effect]
    cases hk : s.ktx with
    | nil => simp [acceptHead, hk]
    | cons x rest => rw [acceptHead_cons hk]; exact emit_reportsAllowed rfl rfl rfl
  | txDoneK =>
    cases e with
    | k => exact absurd rfl hdone
    | p => rw [effect]; split <;> exact reportsAllowed_congr rfl rfl
  | txDoneP =>
    cases e with
    | k => rw [effect]; split <;> exact reportsAllowed_congr rfl rfl
    | p => exact absurd rfl hdone
  | _ => cases ha

/-- Without the endpoint's completion and RESET, what leaves is what the guard allowed. -/
theorem effect_reportsAllowed (he : enabled i s = true) (hreset : i ≠ .reset) (hdone : i ≠ completionOf e) :
    reportsAllowed e (effect i s) = reportsAllowed e s := by
  cases ha : agentOf i with
  | decoder => exact decoder_reportsAllowed ha he
  | pointer => exact pointer_reportsAllowed ha he
  | control => exact control_reportsAllowed ha
  | completion => exact completion_reportsAllowed ha hdone
  | reset => exact absurd (eq_reset_of_agentOf ha) hreset
  | mapper =>
    cases i with
    | mouseRaw => exact emit_reportsAllowed rfl rfl rfl
    | _ => cases ha

theorem exec_reportsAllowed (hexec : exec i s = .next t) (hreset : i ≠ .reset) (hdone : i ≠ completionOf e) :
    reportsAllowed e t = reportsAllowed e s := by
  rcases exec_cases hexec with ⟨he, rfl⟩ | ⟨_, rfl⟩
  · exact effect_reportsAllowed he hreset hdone
  · rfl

/-! ### Runs -/

/-- A run that answers is its first event's step and the run of the others. -/
theorem execAll_cons {is : List Instr} (hrun : execAll (i :: is) s = .next t) :
    ∃ u, exec i s = .next u ∧ execAll is u = .next t := by
  obtain ⟨u, hu⟩ := exec_next i s
  rw [execAll, hu] at hrun
  exact ⟨u, hu, hrun⟩

theorem execAll_reportsAllowed {is : List Instr} (hrun : execAll is s = .next t) (hreset : .reset ∉ is)
    (hdone : completionOf e ∉ is) : reportsAllowed e t = reportsAllowed e s := by
  induction is generalizing s with
  | nil =>
    rw [execAll, Host.Outcome.next.injEq] at hrun
    rw [hrun]
  | cons i is ih =>
    obtain ⟨u, hexec, hrest⟩ := execAll_cons hrun
    rw [List.mem_cons, not_or] at hreset hdone
    calc
      reportsAllowed e t = reportsAllowed e u := ih hrest hreset.2 hdone.2
      _ = reportsAllowed e s := exec_reportsAllowed hexec (Ne.symm hreset.1) (Ne.symm hdone.1)

/-- A run without the endpoint's completion and RESET sends at most what the guard allowed at its start. -/
theorem execAll_reportsSent_le {is : List Instr} (hrun : execAll is s = .next t) (hreset : .reset ∉ is)
    (hdone : completionOf e ∉ is) : reportsSent e t ≤ reportsSent e s + if s.inflight.get e then 0 else 1 :=
  calc
    reportsSent e t ≤ reportsAllowed e t := Nat.le_add_right ..
    _ = reportsAllowed e s := execAll_reportsAllowed hrun hreset hdone
    _ = reportsSent e s + if s.inflight.get e then 0 else 1 := by rw [reportsAllowed, Bool.cond_eq_ite]

/-! ### The report as it stands (R97) -/

theorem keyboardReport_eq (s : State) :
    keyboardReport s = [s.kmod, 0x00, s.kkey[0], s.kkey[1], s.kkey[2], s.kkey[3], s.kkey[4], s.kkey[5]] := by
  rw [keyboardReport, kkey_toList]

end Sys2Proof.Machine
end

section
/-! THE STATEMENTS OF 44_transmit_guard.md: the emission of a report (R211, R212), its completion (R213), and at most one report
in flight (R214). -/

namespace Sys2Proof.Machine

/-- Settles O43: the reports sent and the one a free guard allows are conserved by every event of the run. -/
theorem atMostOneReportInFlight : Obligations.AtMostOneReportInFlight := by
  intro is s t hrun hreset
  exact ⟨fun hdone => execAll_reportsSent_le (e := .k) hrun hreset hdone,
    fun hdone => execAll_reportsSent_le (e := .p) hrun hreset hdone⟩

/-- Settles O40: with the guard free the word of the report as it stands is enabled, and transmits. -/
theorem keyboardReportEmission : Obligations.KeyboardReportEmission := by
  intro s hfree
  have henabled : enabled (.kbdReport s.kmod s.kkey[0] s.kkey[1] s.kkey[2] s.kkey[3] s.kkey[4] s.kkey[5]) s = true := by
    simp [enabled, hfree, keyboardReport_eq]
  rw [exec_of_enabled henabled, effect, transmitK, keyboardReport_eq]
  rfl

/-- Settles O41: with the guard free the word of the report as it stands is enabled, and transmits. -/
theorem pointerReportEmission : Obligations.PointerReportEmission := by
  intro s hfree
  have henabled : enabled (.ptrReport s.pbtn s.pdx s.pdy s.pwheel s.ppan) s = true := by simp [enabled, hfree]
  rw [exec_of_enabled henabled]
  rfl

/-- Settles O42: a completion is always enabled, and what it does depends on its own guard alone. -/
theorem completionFreesItsEndpoint : Obligations.CompletionFreesItsEndpoint := by
  intro s
  have hexecK : exec .txDoneK s = .next (effect .txDoneK s) := exec_of_enabled rfl
  have hexecP : exec .txDoneP s = .next (effect .txDoneP s) := exec_of_enabled rfl
  rw [hexecK, hexecP]
  refine ⟨fun _ => ?busyK, fun hfree => ?freeK, fun hbusy => ?busyP, fun hfree => ?freeP⟩
  case busyK => rw [effect_txDoneK]; rfl
  case freeK => rw [effect, if_neg (by simp [hfree])]
  case busyP => rw [effect, if_pos hbusy]; rfl
  case freeP => rw [effect, if_neg (by simp [hfree])]

end Sys2Proof.Machine
end

section
/-! SUPPORT. A class request that the control context takes (R248), a frame behind one that waits on its port (R7, log 12), the
pointer report of zero deltas (R29, R62), and the idle rates and protocols exchanged for others (R239). -/

namespace Sys2Proof.Machine

variable {s : State} {i : Instr} {idle proto : PerEp Byte}

/-! ### The class requests (R248) -/

/-- With no byte of an LED command queued a request has its effect, GET_REPORT where its guard is free as well. -/
theorem exec_request (hrequest : isRequest i = true) (hqueue : ∀ x ∈ s.ktx, x.tag ≠ .ctl)
    (hguard : ∀ e, i = .getReport e → s.inflight.get e = false) : exec i s = .next (effect i s) :=
  exec_of_enabled ((enabled_request_iff hrequest).mpr ⟨ctlBusy_eq_false_iff.mpr hqueue, hguard⟩)

theorem exec_getReport {e : Endpoint} (hqueue : ∀ x ∈ s.ktx, x.tag ≠ .ctl) (hfree : s.inflight.get e = false) :
    exec (.getReport e) s = .next { s with outs := s.outs ++ [.ctl (.data (reportOf e s))] } :=
  exec_request rfl hqueue (by rintro _ ⟨⟩; exact hfree)

/-- An event of the line, the pointer, the completions or the activation hook does not look at the transmit queue (R248). -/
theorem enabled_ktx (hi : isLineByte i = true ∨ isPointerOp i = true ∨ i = .txDoneK ∨ i = .txDoneP ∨ ∃ e, i = .activate e)
    (q : List KtxEntry) : enabled i { s with ktx := q } = enabled i s := by
  cases i with
  | resetAck | layoutResp | selftestFail | idle | keyDown | keyUp | krxOperand => rfl
  | move | setButtons | buttonPress | buttonRelease => rfl
  | txDoneK | txDoneP | activate => rfl
  | _ => simp [isLineByte, isPointerOp] at hi

/-! ### Waiting on a port (log 12) -/

/-- Nothing is taken from a port on which an earlier frame waits. -/
theorem pick_eq_none_of_held {held : List Port} {fs : List Frame} (h : ∀ f ∈ fs, f.port ∈ held) : pick s held fs = none := by
  induction fs generalizing held with
  | nil => rfl
  | cons f fs ih =>
    have hf : f.port ∈ held := h f List.mem_cons_self
    have hfs : pick s (f.port :: held) fs = none :=
      ih fun g hg => List.mem_cons_of_mem _ (h g (List.mem_cons_of_mem f hg))
    simp [pick, hf, hfs]

/-- A frame that cannot be taken holds up everything offered after it on its port, so the step changes nothing (log 13). -/
theorem step_of_waiting_head {f : Frame} {rest : List Frame} (hprobe : s.probe = none) (hpending : s.pending = f :: rest)
    (hwaits : frameReady s f = false) (hport : ∀ g ∈ rest, g.port = f.port) : step s = .next s := by
  have hrest : pick s [f.port] rest = none := pick_eq_none_of_held fun g hg => by simp [hport g hg]
  refine step_of_pick_none hprobe ?_
  simp [hpending, pick, hwaits, hrest]

/-! ### The pointer report of zero deltas (R62) -/

theorem ptrBytes_zero (c : Config) (btn : BitVec 3) :
    ptrBytes c btn 0x00 0x00 0x00 0x00 = btn.setWidth 8 :: List.replicate (c.ptrUsed - 1) 0x00 := by
  cases hw : c.hasWheel <;> cases hp : c.hasPan <;> simp [ptrBytes, Config.ptrUsed, hw, hp, List.replicate]

/-- With no pointer report in flight the report is the buttons and zeros (R29): deltas and padding look the same. -/
theorem pointerReport_idle (hinv : BlockInv s) (hfree : s.inflight.p = false) :
    pointerReport s = s.pbtn.setWidth 8 :: List.replicate (s.cfg.ptrLen - 1) 0x00 := by
  obtain ⟨hcfg, _, hpointer, _, _⟩ := hinv
  obtain ⟨hdx, hdy, hwheel, hpan⟩ := hpointer hfree
  have hused : 3 ≤ s.cfg.ptrUsed := by rw [Config.ptrUsed]; omega
  have hlen : s.cfg.ptrUsed - 1 + (s.cfg.ptrLen - s.cfg.ptrUsed) = s.cfg.ptrLen - 1 := by
    have := (configOk_ptrLen hcfg).1
    omega
  rw [pointerReport, hdx, hdy, hwheel, hpan, ptrBytes_zero, List.cons_append, List.replicate_append_replicate, hlen]

/-! ### Other idle rates and protocols (R239) -/

/-- The block with other idle rates and protocols and all else the same. -/
def State.withStored (idle proto : PerEp Byte) (s : State) : State :=
  { s with idle := idle, proto := proto }

/-- No enabling condition looks at them. -/
theorem enabled_withStored (i : Instr) : enabled i (s.withStored idle proto) = enabled i s := by
  cases i <;> rfl

theorem State.withStored_kmod : (s.withStored idle proto).kmod = s.kmod := rfl
theorem State.withStored_kkey : (s.withStored idle proto).kkey = s.kkey := rfl
theorem State.withStored_inflight : (s.withStored idle proto).inflight = s.inflight := rfl
theorem State.withStored_dstate : (s.withStored idle proto).dstate = s.dstate := rfl
theorem State.withStored_ktx : (s.withStored idle proto).ktx = s.ktx := rfl
theorem State.withStored_cfg : (s.withStored idle proto).cfg = s.cfg := rfl

theorem press_withStored (u : Byte) (s : State) :
    (press u (s.withStored idle proto)).2 = (press u s).2.withStored idle proto := by
  simp only [press]
  rw [State.withStored_cfg, State.withStored_kmod, State.withStored_kkey]
  split_ifs
  · rfl
  · rfl
  · rfl
  · cases slotOf s.kkey u with
    | some => rfl
    | none => cases slotOf s.kkey 0x00 <;> rfl

theorem release_withStored (u : Byte) (s : State) :
    (release u (s.withStored idle proto)).2 = (release u s).2.withStored idle proto := by
  simp only [release]
  rw [State.withStored_cfg, State.withStored_kmod, State.withStored_kkey]
  split_ifs
  · rfl
  · rfl
  · rfl
  · cases slotOf s.kkey u <;> rfl

theorem releaseAll_withStored (s : State) :
    (releaseAll (s.withStored idle proto)).2 = (releaseAll s).2.withStored idle proto := by
  have hzero : allReleased (s.withStored idle proto) = allReleased s := rfl
  simp only [releaseAll]
  rw [hzero]
  split_ifs <;> rfl

/-- A byte is taken the same way where its form's effect is. -/
theorem takeByte_withStored {b : Byte} {form : State → State}
    (h : form (s.withStored idle proto) = (form s).withStored idle proto) :
    takeByte b form (s.withStored idle proto) = (takeByte b form s).withStored idle proto := by
  simp only [takeByte]
  rw [State.withStored_cfg, State.withStored_dstate]
  split_ifs
  · rfl
  · exact h

theorem keyTransition_withStored {b : Byte} {op : Byte → State → Status × State}
    (h : ∀ u, (op u (s.withStored idle proto)).2 = (op u s).2.withStored idle proto) :
    keyTransition b op (s.withStored idle proto) = (keyTransition b op s).withStored idle proto := by
  simp only [keyTransition]
  rw [State.withStored_cfg]
  split_ifs
  · rfl
  · rw [h]; rfl

theorem acceptHead_withStored (s : State) :
    acceptHead (s.withStored idle proto) = (acceptHead s).withStored idle proto := by
  simp only [acceptHead]
  rw [State.withStored_ktx]
  cases s.ktx <;> rfl

/-- No event of the decoder looks at them. -/
theorem decoder_withStored (ha : agentOf i = .decoder) (s : State) :
    effect i (s.withStored idle proto) = (effect i s).withStored idle proto := by
  cases i with
  | resetAck | layoutResp | selftestFail => exact takeByte_withStored rfl
  | idle =>
    simp only [effect]
    refine takeByte_withStored ?_
    rw [releaseAll_withStored]
    rfl
  | keyDown => exact takeByte_withStored (keyTransition_withStored fun u => press_withStored u s)
  | keyUp => exact takeByte_withStored (keyTransition_withStored fun u => release_withStored u s)
  | krxOperand =>
    simp only [effect]
    refine takeByte_withStored ?_
    rw [State.withStored_dstate]
    split_ifs <;> rfl
  | press u => exact press_withStored u s
  | release u => exact release_withStored u s
  | releaseAll => exact releaseAll_withStored s
  | settle | krxFail | cmdReset | kbdReport => rfl
  | _ => cases ha

/-- An event that reads neither register has the same effect whatever they hold, but for the values it leaves in them. -/
theorem effect_withStored (hidle : ∀ e, i ≠ .getIdle e) (hproto : ∀ e, i ≠ .getProtocol e) (s : State) :
    ∃ idle' proto', effect i (s.withStored idle proto) = (effect i s).withStored idle' proto' := by
  cases i with
  | getIdle e => exact absurd rfl (hidle e)
  | getProtocol e => exact absurd rfl (hproto e)
  | setIdle | setProtocol | activate | reset => exact ⟨_, _, rfl⟩
  | buttonPress | buttonRelease =>
    refine ⟨idle, proto, ?_⟩
    simp only [effect, buttonPress, buttonRelease]
    split_ifs <;> rfl
  | txDoneK | txDoneP =>
    refine ⟨idle, proto, ?_⟩
    simp only [effect]
    rw [State.withStored_inflight]
    split_ifs <;> rfl
  | ktxAccept => exact ⟨idle, proto, acceptHead_withStored s⟩
  | move | setButtons | ptrReport | mouseRaw => exact ⟨idle, proto, rfl⟩
  | getReport | setReport | reject | cmdLeds | outputReport | sunLedMask => exact ⟨idle, proto, rfl⟩
  | _ => exact ⟨idle, proto, decoder_withStored rfl s⟩

end Sys2Proof.Machine
end

section
/-! THE STATEMENTS OF 45_control_led.md: the class requests (R231 to R237), the activation hook (R240), the queued LED command
(R247, R248), and what the idle rates and protocols reach (R239). -/

namespace Sys2Proof.Machine

/-- Settles O46: the request's word carries its byte in the value field, and `PerEp.set` writes one of the two places. -/
theorem setIdleAndProtocolStore : Obligations.SetIdleAndProtocolStore := by
  intro s hi lo hqueue
  refine ⟨fun hcfg e data => ⟨?idleWord, ?protocolWord⟩, exec_request rfl hqueue nofun, exec_request rfl hqueue nofun,
    exec_request rfl hqueue nofun, exec_request rfl hqueue nofun⟩
  case idleWord => rw [decode_ctl_word, decodeRequest_setIdle hcfg, value_high_byte]
  case protocolWord => rw [decode_ctl_word, decodeRequest_setProtocol hcfg, value_low_byte]

/-- Settles O47: a free guard is all a GET_REPORT of an idle control context waits for; with the guard held it cannot be taken
and holds up its port. -/
theorem getReportAnswersTheReport : Obligations.GetReportAnswersTheReport := by
  intro s hqueue
  refine ⟨fun hfree => exec_getReport (e := .k) hqueue hfree, fun hfree hinv => ?atRest,
    fun hfree => exec_getReport (e := .p) hqueue hfree, fun e hbusy => ?waits⟩
  case atRest => rw [exec_getReport (e := .p) hqueue hfree, reportOf, pointerReport_idle hinv hfree]
  case waits =>
    have hdisabled : enabled (.getReport e) s = false := by simp [enabled, hbusy]
    refine ⟨hdisabled, fun f rest hprobe hpending hport hdecode hrest => ?_⟩
    exact step_of_waiting_head hprobe hpending (frameReady_eq_false (.inr ⟨_, hdecode, hdisabled⟩))
      fun g hg => (hrest g hg).trans hport.symm

/-- Settles O48: the request waits for the control context alone. -/
theorem setReportForwardsTheLeds : Obligations.SetReportForwardsTheLeds := by
  intro s data hqueue
  exact exec_request rfl hqueue nofun

/-- Settles O52, by the condition every request shares and the conditions that do not read the queue. -/
theorem queuedLedBytesHoldTheControlContext : Obligations.QueuedLedBytesHoldTheControlContext := by
  intro s
  refine ⟨ctlBusy_eq_true_iff, fun hbusy i hrequest => ?held, fun i q hi => enabled_ktx hi q⟩
  case held =>
    refine Bool.eq_false_iff.mpr fun he => ?_
    obtain ⟨hidle, _⟩ := (enabled_request_iff hrequest).mp he
    simp [hbusy] at hidle

/-- Settles O53: no enabling condition reads the two registers, and of the effects only those of the two requests that
answer them. -/
theorem idleAndProtocolAreStorageOnly : Obligations.IdleAndProtocolAreStorageOnly := by
  intro i s t idle proto hidle hproto hexec
  rcases exec_cases hexec with ⟨he, rfl⟩ | ⟨he, rfl⟩
  · obtain ⟨idle', proto', heffect⟩ := effect_withStored (idle := idle) (proto := proto) hidle hproto s
    exact ⟨idle', proto', (exec_of_enabled ((enabled_withStored i).trans he)).trans (congrArg _ heffect)⟩
  · exact ⟨idle, proto, exec_disabled ((enabled_withStored i).trans he)⟩

/-- Settles O17: what the head entry's leaving does to the decoder depends on its tag alone. -/
theorem lineTakesTheHeadByte : Obligations.LineTakesTheHeadByte := by
  intro s b rest
  have hleaves : ∀ tag, s.ktx = ⟨b, tag⟩ :: rest → exec .ktxAccept s = .next
      { s with ktx := rest, outs := s.outs ++ [.ktx b], dstate := if tag = .dec then .first else s.dstate } := by
    intro tag hq
    have henabled : enabled .ktxAccept s = true := ktxValid_iff.mpr (by simp [hq])
    rw [exec_of_enabled henabled, effect, acceptHead_cons hq]
    rfl
  exact ⟨ktxValid_iff, hleaves .dec, hleaves .ctl⟩

/-- Settles O45: both requests wait for the control context alone. -/
theorem getIdleAndProtocolAnswer : Obligations.GetIdleAndProtocolAnswer := by
  intro s e hqueue
  exact ⟨exec_request rfl hqueue nofun, exec_request rfl hqueue nofun⟩

/-- Settles O49: the condition a rejected request raises is not transport-fatal, so the decoder stays where it is. -/
theorem rejectAnswersAndChangesNothing : Obligations.RejectAnswersAndChangesNothing := by
  intro s req iface value hqueue
  exact exec_request rfl hqueue nofun

/-- Settles O51: the activation hook is always enabled. -/
theorem activationRestoresDefaults : Obligations.ActivationRestoresDefaults := by
  intro s
  exact ⟨exec_of_enabled (i := .activate .k) rfl, exec_of_enabled (i := .activate .p) rfl⟩

end Sys2Proof.Machine
end

section
/-! SUPPORT. What is on the bus of an endpoint whose guard is held does not change: the agent that writes the report waits for
the guard (R154, R190), and the completion and RESET, which do not wait, free it (R213, R290). -/

namespace Sys2Proof.Machine

variable {s t : State} {i : Instr} {e : Endpoint}

/-- The decoder waits for the keyboard's guard, but for the sending of the reset command. -/
theorem decoder_waits_or_sendsReset (ha : agentOf i = .decoder) (he : enabled i s = true) :
    s.inflight.k = false ∨ effect i s = sendReset s := by
  cases i with
  | settle | cmdReset => exact .inr rfl
  | resetAck | layoutResp | selftestFail | idle | keyDown | keyUp | krxOperand =>
    exact .inl (krxReady_iff.mp (krxReady_of_lineByte rfl he)).2
  | krxFail => exact .inl (krxReady_iff.mp he).2
  | press | release | releaseAll => exact .inl (firstReady_iff.mp he).2
  | kbdReport =>
    rw [enabled, Bool.and_eq_true, Bool.not_eq_true'] at he
    exact .inl he.1
  | _ => cases ha

/-- Everything the pointer does waits for its guard. -/
theorem pointer_waits (ha : agentOf i = .pointer) (he : enabled i s = true) : s.inflight.p = false := by
  cases i with
  | move | setButtons | buttonPress | buttonRelease => exact popReady_iff.mp he
  | ptrReport =>
    rw [enabled, Bool.and_eq_true, Bool.not_eq_true'] at he
    exact he.1
  | _ => cases ha

/-- Of the completions only that of the pointer's report writes the pointer's registers, and it frees the guard. -/
theorem completion_frees_or_keeps (ha : agentOf i = .completion) :
    (effect i s).inflight.p = false ∨ pointerReport (effect i s) = pointerReport s := by
  cases i with
  | ktxAccept =>
    rw [effect]
    cases hq : s.ktx with
    | nil => exact .inr (by simp [acceptHead, hq])
    | cons x rest => exact .inr (by rw [acceptHead_cons hq]; rfl)
  | txDoneK => exact .inr (by rw [effect_txDoneK]; rfl)
  | txDoneP =>
    rw [effect]
    split
    case isTrue => exact .inl rfl
    case isFalse hidle => exact .inl (Bool.eq_false_of_not_eq_true hidle)
  | _ => cases ha

theorem effect_keyboardReport_inflight (he : enabled i s = true) (hheld : s.inflight.k = true)
    (hstill : (effect i s).inflight.k = true) : keyboardReport (effect i s) = keyboardReport s := by
  have hcolumn := (effect_writes i s).column
  cases ha : agentOf i <;> rw [ha, OwnColumn] at hcolumn
  case decoder =>
    rcases decoder_waits_or_sendsReset ha he with hfree | hsends
    · simp [hheld] at hfree
    · rw [hsends]; rfl
  case pointer | control | completion | mapper => rw [hcolumn]; rfl
  case reset =>
    obtain rfl := eq_reset_of_agentOf ha
    cases hstill

theorem effect_pointerReport_inflight (he : enabled i s = true) (hheld : s.inflight.p = true)
    (hstill : (effect i s).inflight.p = true) : pointerReport (effect i s) = pointerReport s := by
  have hcolumn := (effect_writes i s).column
  cases ha : agentOf i <;> rw [ha, OwnColumn] at hcolumn
  case decoder | control | mapper => rw [hcolumn]; rfl
  case pointer => simp [pointer_waits ha he] at hheld
  case completion =>
    rcases completion_frees_or_keeps (s := s) ha with hfreed | hkept
    · simp [hstill] at hfreed
    · exact hkept
  case reset =>
    obtain rfl := eq_reset_of_agentOf ha
    cases hstill

theorem exec_reportOf_inflight (hexec : exec i s = .next t) (hheld : s.inflight.get e = true)
    (hstill : t.inflight.get e = true) : reportOf e t = reportOf e s := by
  rcases exec_cases hexec with ⟨he, rfl⟩ | ⟨_, rfl⟩
  · cases e with
    | k => exact effect_keyboardReport_inflight he hheld hstill
    | p => exact effect_pointerReport_inflight he hheld hstill
  · rfl

/-- A step keeps the report of an endpoint whose guard is held before and after it (R294). -/
theorem step_reportOf_inflight (hstep : step s = .next t) (hheld : s.inflight.get e = true)
    (hstill : t.inflight.get e = true) : reportOf e t = reportOf e s := by
  rcases step_cases hstep with ⟨_, _, rfl⟩ | ⟨_, f, rest, i, _, _, hexec⟩ | ⟨f, i, _, _, hexec⟩
  · rfl
  · rw [exec_reportOf_inflight hexec hheld hstill]
    cases e <;> rfl
  · rw [exec_reportOf_inflight hexec hheld hstill]
    cases e <;> rfl

end Sys2Proof.Machine
end

section
/-! THE STATEMENTS OF 70_reset_and_hazards.md: RESET (R290), the start-up sequence (R292), and the report in flight (R294). -/

namespace Sys2Proof.Machine

/-- Settles O4: RESET leads to `D_SETTLE`, where the line is not read; SETTLE queues the reset command behind nothing (O16), and
its leaving opens the read loop (O17). -/
theorem startUpOpensTheReadLoop : Obligations.StartUpOpensTheReadLoop := by
  intro s
  let a := effect .reset s
  let b := sendReset a
  have hreset : exec .reset s = .next a := exec_of_enabled rfl
  have hsettle : exec .settle a = .next b := (settleQueuesTheResetCommand a).1 rfl
  have haccept := (lineTakesTheHeadByte b s.cfg.cmdReset []).2.1 rfl
  have hclosed : krxReady a = false := rfl
  refine ⟨a, b, _, hreset, hsettle, haccept, hclosed, rfl, rfl, rfl, rfl, rfl, ?waits⟩
  case waits =>
    rintro byte i ⟨⟩
    exact exec_disabled ((enabled_decodeKrx byte a).trans hclosed)

/-- Settles O44: the two buses carry the reports of the two endpoints. -/
theorem reportIsStableInFlight : Obligations.ReportIsStableInFlight := by
  intro s t hstep
  exact ⟨fun hheld hstill => congrArg packLanes (step_reportOf_inflight (e := .k) hstep hheld hstill),
    fun hheld hstill => congrArg packLanes (step_reportOf_inflight (e := .p) hstep hheld hstill)⟩

/-- Settles O1: RESET is always enabled, and the guards it frees are what a late completion looks at (O42). -/
theorem resetRestoresEveryRegister : Obligations.ResetRestoresEveryRegister := by
  intro s
  let t := effect .reset s
  have hreset : exec .reset s = .next t := exec_of_enabled rfl
  have hkeys : ∀ i : Fin 6, t.kkey[i] = 0x00 := kkey_eq_replicate_iff.mp rfl
  obtain ⟨_, hlateK, _, hlateP⟩ := completionFreesItsEndpoint t
  exact ⟨t, hreset, rfl, hkeys, rfl, rfl, rfl, rfl, rfl, rfl, rfl, rfl, rfl, rfl, rfl, rfl, rfl, rfl, rfl,
    hlateK rfl, hlateP rfl⟩

end Sys2Proof.Machine
end
